-- ==== Sys2Proof/Word.lean ====
section
/-! DEFINITION. The byte and the word of the array (00_scope.md, "Sizes"; R187). -/

namespace Sys2Proof

/-- The smallest addressable unit of the array and of a frame. -/
abbrev Byte := BitVec 8

/-- The unit in which the array is programmed: 4 bytes. -/
abbrev Word := BitVec 32

/-- R187: the erased state of an array byte reads FFh. -/
def erasedByte : Byte := 0xFF#8

end Sys2Proof
end

