-- ==== Sys2Proof/Machine/Bytes.lean ====
section
/-! DEFINITION. Numbers as bytes (R187), and the three checks of the part: CRC-8 on the link (R177), CRC-16
on headers (R5), CRC-32 on payloads and the configuration (R6). -/

namespace Sys2Proof

/-- R187: `n` in `k` bytes, most significant first. -/
def be : Nat → Nat → List Byte
  | 0, _ => []
  | k + 1, n => be k (n / 256) ++ [BitVec.ofNat 8 n]

/-- R187: the number a run of bytes holds, most significant first. -/
def ofBe (bytes : List Byte) : Nat :=
  bytes.foldl (fun n b => n * 256 + b.toNat) 0

/-- R187, R188: the bytes of a word, most significant first. -/
def wordBytes (w : Word) : List Byte := be 4 w.toNat

/-- Whether every byte reads as erased (R187). -/
def allErased (bytes : List Byte) : Bool := bytes.all (· == erasedByte)

/-- `k` shifts of a check register that takes its most significant bit first. -/
def crcShifts {w : Nat} (poly : BitVec w) : Nat → BitVec w → BitVec w
  | 0, c => c
  | k + 1, c => crcShifts poly k (if c.msb then (c <<< 1) ^^^ poly else c <<< 1)

/-- R177: CRC-8, polynomial 07h, initial value 00h, most significant bit first, no final inversion. -/
def crc8 (bytes : List Byte) : Byte :=
  bytes.foldl (fun c b => crcShifts 0x07#8 8 (c ^^^ b)) 0x00#8

/-- R5: CRC-16, polynomial 1021h, initial value FFFFh, most significant bit first, stored without inversion. -/
def crc16 (bytes : List Byte) : BitVec 16 :=
  bytes.foldl (fun c b => crcShifts 0x1021#16 8 (c ^^^ (b.setWidth 16).shiftLeft 8)) 0xFFFF#16

/-- `k` shifts of a check register that takes its least significant bit first. The polynomial 04C11DB7h
is written in that bit order. -/
def crcShiftsLow : Nat → BitVec 32 → BitVec 32
  | 0, c => c
  | k + 1, c => crcShiftsLow k (if c.getLsbD 0 then (c >>> 1) ^^^ 0xEDB88320#32 else c >>> 1)

/-- R6: CRC-32, polynomial 04C11DB7h, initial value FFFFFFFFh, least significant bit first, inverted before
it is stored. PRESUMED (log 15): the stored value has the bit order of the usual CRC-32 of this kind. -/
def crc32 (bytes : List Byte) : BitVec 32 :=
  ~~~ (bytes.foldl (fun c b => crcShiftsLow 8 (c ^^^ b.setWidth 32)) 0xFFFFFFFF#32)

/-- A byte is yes/no as R189 codes it. -/
def yesNo (b : Bool) : Byte := if b then 0x01#8 else 0x00#8

end Sys2Proof
end

