-- ==== Sys2Proof/Config.lean ====
section
/-! DEFINITION. What the manual fixes as numbers, and the free values: constants without a body for what
the manual leaves open (log 20). -/

namespace Sys2Proof.Config

/-- Segments of the array (00_scope.md, R21). -/
def segmentCount : Nat := 64

/-- Bytes of a segment (R21). -/
def segmentBytes : Nat := 65536

/-- Bytes of the whole array: 4 MiB. -/
def arrayBytes : Nat := 4194304

/-- Bytes of a line (00_scope.md, "Sizes"). -/
def lineBytes : Nat := 16

/-- The first journal segment; segments 0 and 1 hold the configuration copies (R21). -/
def firstJournal : Nat := 2

/-- The last journal segment (R21). -/
def lastJournal : Nat := 63

/-- The number of journal segments (R24). -/
def journalCount : Nat := 62

/-- The first data line of a journal segment (R21). -/
def firstDataLine : Nat := 4

/-- The number of lines of a segment (R21). -/
def segmentLines : Nat := 4096

/-- The number of data lines of a journal segment (R21). -/
def dataLines : Nat := 4092

/-- R54: the exhausted value of the next sequence number, 2^48 - 1. -/
def exhaustedSequence : Nat := 281474976710655

/-- R38: the endurance limit, in erases per journal segment. -/
def enduranceLimit : Nat := 100000

/-- R41: the least usable count with which the part goes on appending. -/
def leastUsable : Nat := 8

/-- R33: the reserve, in segments. -/
def reserve : Nat := 1

/-- R82: counted headers per fetch grant. -/
def fetchAllowance : Nat := 256

/-- R112: fetch grants after which a pending append is granted first. -/
def fetchLimit : Nat := 4

/-- R167: completion slots of a port. -/
def completionSlots : Nat := 16

/-- R171: places of a notice list. -/
def noticePlaces : Nat := 8

/-- R14: the value at which the mount number stops. -/
def lastMountNumber : Nat := 65535

/-- R144: the version that cannot be followed by another, 2^32 - 1. -/
def lastVersion : Nat := 4294967295

/-- R25, R28: the largest erase count a header can hold. -/
def lastEraseCount : Nat := 16777215

/-- R32: the largest value the rule gives the generation counter. -/
def lastGeneration : Nat := 4294967295

/-- FREE VALUE (log 20): the generation counter after 2^32 - 1, for which R32 states no value. -/
opaque generationPastEnd : BitVec 32

/-- FREE VALUE (log 20): the count of an erase after 16,777,215, for which R28 states no value. -/
opaque eraseCountPastEnd : BitVec 24

/-- FREE VALUE (log 20): which of the three reasons is read from a BAD group whose check passes and whose
reason byte is none of R188's codes. The part programs no such group (R22). -/
opaque unlistedBadReason : BitVec 8 → Fin 3

end Sys2Proof.Config
end

