-- ==== Sys2Proof/Syntax.lean ====
section
/-! DEFINITION. The commands of the part, whole: one constructor for each row of spec/opcode_table.json.

A host command carries the port it arrived on and the raw operand fields of R192, each at its encoded
width, so that a value outside its encoding can be sent and is refused where its rule says so (R189).
An event of the array carries what the array did (log 7). -/

namespace Sys2Proof

/-- The three host ports (R176). -/
inductive Port where
  | a
  | b
  | c
deriving DecidableEq, Repr

/-- What the array did with one program, in the order in which the operation asks for its programs.
The verify of R117 reads the words back and compares them with what was to be programmed (log 7). -/
inductive Programmed where
  /-- every bit to be programmed was programmed -/
  | done
  /-- the program left these bytes instead, from the first byte of the program on; bytes beyond the list
  were not programmed. A program clears bits and sets none, so each byte is ANDed with what stood there. -/
  | left (bytes : List Byte)
deriving DecidableEq, Repr

/-- How an erase attempt left its segment (R99, R116). -/
inductive Erased where
  /-- wholly erased -/
  | clean
  /-- these bytes of the segment, by offset, are not as erased; all others are erased -/
  | left (bytes : List (Nat × Byte))
deriving DecidableEq, Repr

/-- Why a frame is rejected (R177). -/
inductive FrameFault where
  /-- the check byte differs from the CRC-8 the part computes -/
  | badCheck
  /-- the command code names no command -/
  | badCode
  /-- the operand count is not one the command's layout allows -/
  | badCount
  /-- select was released before the check byte had arrived -/
  | cutShort
deriving DecidableEq, Repr

/-- The operation of the array that a reset stops, with what its programs had done before it stopped
(R61, R119, R136, R148): the answers end where the supply or the RESET line ended the operation, and a
last answer `left` is a program cut short. -/
inductive Cut where
  /-- no operation but perhaps an erase held the array; `left` is what a begun erase leaves in its segment,
  none when the array had not yet changed it -/
  | idle (left : Option Erased)
  /-- the mount scan -/
  | scan (media : List Programmed)
  /-- a write-out; a suspended erase leaves `left` -/
  | append (media : List Programmed) (left : Option Erased)
  /-- a retire grant -/
  | retire (media : List Programmed)
  /-- a configuration program grant; a suspended erase leaves `left` -/
  | config (media : List Programmed) (left : Option Erased)
  /-- the programs that follow an erase attempt -/
  | eraseEnd (result : Erased) (media : List Programmed)
deriving DecidableEq, Repr

/-- What the array answers to the programs of a retire grant, and whether the grant, with its target chosen, holds the array on
when its event ends, so that other commands arrive during it (R113); a further event ends it. -/
structure GrantMedia where
  answers : List Programmed
  holds : Bool
deriving DecidableEq, Repr

/-- The commands and events of spec/opcode_table.json, in its order. -/
inductive Instr where
  | readStatus (port : Port)
  | attach (port : Port) (lease mask : Byte)
  | detach (port : Port)
  | readClock (port : Port)
  | queryJournal (port : Port)
  | querySegment (port : Port) (index : Byte)
  | beginRecord (port : Port) (buffer stream : Byte) (length : BitVec 16)
  | load (port : Port) (buffer : Byte) (offset : BitVec 16) (bytes : List Byte)
  | abandon (port : Port) (buffer : Byte)
  | commit (port : Port) (buffer tag : Byte)
  | openCursor (port : Port) (filter : BitVec 16) (start mode : Byte)
  | closeCursor (port : Port) (id : Byte)
  | seek (port : Port) (id : Byte) (position : BitVec 48)
  | ack (port : Port) (id : Byte) (position : BitVec 48)
  | rewind (port : Port) (id : Byte)
  | setCursorMode (port : Port) (id mode : Byte)
  | queryCursor (port : Port) (id : Byte)
  | readNext (port : Port) (id tag : Byte) (wait : BitVec 16)
  | readWindow (port : Port) (offset : BitVec 16) (count : Byte)
  | takeCompletion (port : Port) (which : Byte)
  | takeNotice (port : Port) (which : Byte)
  | claimService (port : Port) (tag : Byte)
  | releaseService (port : Port)
  | format (port : Port) (tag : Byte)
  | readConfig (port : Port) (which : Byte)
  | editStream (port : Port) (stream writers closed : Byte)
  | editRights (port : Port) (rights : Byte)
  | editPolicy (port : Port) (policy hold target slice : Byte)
  | commitConfig (port : Port) (tag : Byte)
  | lockConfig (port : Port)
  | frameError (port : Port) (cause : FrameFault)
  | resetAsserted (cut : Cut)
  | resetReleased
  | mountScan (media : List Programmed)
  | appendWriteOut (media : List Programmed)
  | fetchGrant (port : Port)
  | retireGrant (media : GrantMedia)
  | configProgramGrant (media : List Programmed)
  | eraseStart
  | eraseSliceElapsed
  | eraseResume
  | eraseAttemptEnd (result : Erased) (media : List Programmed)
  | leaseExpiry (port : Port)
  | holdTimerExpiry
  | waitDeadline (cursor : Nat)
  | tickCounterAdvance
deriving DecidableEq, Repr

end Sys2Proof
end

