-- ==== Sys2Proof/WellFormed.lean ====
section
/-! DEFINITION. Which terms of `Instr` stand for a command of the part. Operand bytes of any value are
well formed, since a host can send them; the checks here are on what no frame and no array can give. -/

namespace Sys2Proof

/-- An erase leaves bytes of its own segment only (R21). -/
def Erased.wf : Erased → Bool
  | .clean => true
  | .left bytes => bytes.all fun c => c.1 < Config.segmentBytes

/-- The bytes a stopped erase leaves lie in its segment. -/
def Cut.wf : Cut → Bool
  | .idle left => left.all Erased.wf
  | .scan _ => true
  | .append _ left => left.all Erased.wf
  | .retire _ => true
  | .config _ left => left.all Erased.wf
  | .eraseEnd result _ => result.wf

/-- R45: a LOAD carries 1 to 64 bytes. R68: a cursor's number is 0 to 11. -/
def Instr.wf : Instr → Bool
  | .load _ _ _ bytes => 1 ≤ bytes.length && bytes.length ≤ 64
  | .resetAsserted cut => cut.wf
  | .eraseAttemptEnd result _ => result.wf
  | .waitDeadline cursor => cursor < 12
  | _ => true

end Sys2Proof
end

