-- ==== Sys2Proof/Decode.lean ====
section
/-! DEFINITION. Words and frames. spec/opcode_table.json gives no bits to any row, so no word of the table spells a
command (log 24). The frames of R177 and R192, in which hosts send their commands, are decoded and encoded here. -/

namespace Sys2Proof

/-- The command that a word spells by the bits of spec/opcode_table.json. Every row there has an empty list of
fields and no fixed bits, so there is none (log 24). -/
def decodeTableWord (_nbits _w : Nat) : Option Instr := none

/-! ### Frames (R177, R192) -/

/-- R192: the commands without operands. -/
def operands0 (i : Instr) : List Byte → Except FrameFault Instr
  | [] => .ok i
  | _ => .error .badCount

/-- R192: the commands with one operand byte. -/
def operands1 (f : Byte → Instr) : List Byte → Except FrameFault Instr
  | [a] => .ok (f a)
  | _ => .error .badCount

/-- R192: the commands with two operand bytes. -/
def operands2 (f : Byte → Byte → Instr) : List Byte → Except FrameFault Instr
  | [a, b] => .ok (f a b)
  | _ => .error .badCount

/-- R192: the commands with three operand bytes. -/
def operands3 (f : Byte → Byte → Byte → Instr) : List Byte → Except FrameFault Instr
  | [a, b, c] => .ok (f a b c)
  | _ => .error .badCount

/-- R192: the commands with four operand bytes. -/
def operands4 (f : Byte → Byte → Byte → Byte → Instr) : List Byte → Except FrameFault Instr
  | [a, b, c, d] => .ok (f a b c d)
  | _ => .error .badCount

/-- R192: SEEK and ACK: an id and a sequence number. -/
def operands7 (f : Byte → BitVec 48 → Instr) : List Byte → Except FrameFault Instr
  | [a, b5, b4, b3, b2, b1, b0] => .ok (f a (b5 ++ b4 ++ b3 ++ b2 ++ b1 ++ b0))
  | _ => .error .badCount

/-- R192: LOAD: buffer, offset and 1 to 64 bytes. -/
def operandsLoad (p : Port) : List Byte → Except FrameFault Instr
  | buffer :: high :: low :: bytes =>
    if 1 ≤ bytes.length && bytes.length ≤ 64 then .ok (.load p buffer (high ++ low) bytes) else .error .badCount
  | _ => .error .badCount

/-- R192: the command of a code with its operand bytes, or why the layout does not allow it. -/
def decodeCommand (p : Port) (code : Byte) : List Byte → Except FrameFault Instr :=
  match code.toNat with
  | 0x01 => operands0 (.readStatus p)
  | 0x02 => operands2 (.attach p)
  | 0x03 => operands0 (.detach p)
  | 0x04 => operands0 (.readClock p)
  | 0x05 => operands0 (.queryJournal p)
  | 0x06 => operands1 (.querySegment p)
  | 0x10 => operands4 fun buffer stream high low => .beginRecord p buffer stream (high ++ low)
  | 0x11 => operandsLoad p
  | 0x12 => operands1 (.abandon p)
  | 0x13 => operands2 (.commit p)
  | 0x20 => operands4 fun high low start mode => .openCursor p (high ++ low) start mode
  | 0x21 => operands1 (.closeCursor p)
  | 0x22 => operands7 (.seek p)
  | 0x23 => operands7 (.ack p)
  | 0x24 => operands1 (.rewind p)
  | 0x25 => operands2 (.setCursorMode p)
  | 0x26 => operands1 (.queryCursor p)
  | 0x27 => operands4 fun id tag high low => .readNext p id tag (high ++ low)
  | 0x28 => operands3 fun high low count => .readWindow p (high ++ low) count
  | 0x30 => operands1 (.takeCompletion p)
  | 0x31 => operands1 (.takeNotice p)
  | 0x40 => operands1 (.claimService p)
  | 0x41 => operands0 (.releaseService p)
  | 0x42 => operands1 (.format p)
  | 0x50 => operands1 (.readConfig p)
  | 0x51 => operands3 (.editStream p)
  | 0x52 => operands1 (.editRights p)
  | 0x53 => operands4 (.editPolicy p)
  | 0x54 => operands1 (.commitConfig p)
  | 0x55 => operands0 (.lockConfig p)
  | _ => fun _ => .error .badCode

/-- R177: what the port makes of the bytes shifted in during one select period. Bytes after the check byte are
ignored; without a check byte the frame was cut short. -/
def decodeFrame (p : Port) : List Byte → Instr
  | code :: count :: rest =>
    let operands := rest.take count.toNat
    match rest.drop count.toNat with
    | [] => .frameError p .cutShort
    | check :: _ =>
      if crc8 (code :: count :: operands) ≠ check then .frameError p .badCheck
      else
        match decodeCommand p code operands with
        | .ok i => i
        | .error fault => .frameError p fault
  | _ => .frameError p .cutShort

/-- Two bytes of a word, most significant first (R187). -/
def bytes2 (w : BitVec 16) : List Byte := [w.extractLsb' 8 8, w.extractLsb' 0 8]

/-- Six bytes of a sequence number, most significant first (R187). -/
def bytes6 (w : BitVec 48) : List Byte :=
  [w.extractLsb' 40 8, w.extractLsb' 32 8, w.extractLsb' 24 8, w.extractLsb' 16 8, w.extractLsb' 8 8,
    w.extractLsb' 0 8]

/-- R192: the port, the code and the operand bytes of a host command; none for what no frame carries. -/
def encodeCommand : Instr → Option (Port × Byte × List Byte)
  | .readStatus p => some (p, 0x01, [])
  | .attach p lease mask => some (p, 0x02, [lease, mask])
  | .detach p => some (p, 0x03, [])
  | .readClock p => some (p, 0x04, [])
  | .queryJournal p => some (p, 0x05, [])
  | .querySegment p index => some (p, 0x06, [index])
  | .beginRecord p buffer stream length => some (p, 0x10, buffer :: stream :: bytes2 length)
  | .load p buffer offset bytes => some (p, 0x11, buffer :: bytes2 offset ++ bytes)
  | .abandon p buffer => some (p, 0x12, [buffer])
  | .commit p buffer tag => some (p, 0x13, [buffer, tag])
  | .openCursor p filter start mode => some (p, 0x20, bytes2 filter ++ [start, mode])
  | .closeCursor p id => some (p, 0x21, [id])
  | .seek p id position => some (p, 0x22, id :: bytes6 position)
  | .ack p id position => some (p, 0x23, id :: bytes6 position)
  | .rewind p id => some (p, 0x24, [id])
  | .setCursorMode p id mode => some (p, 0x25, [id, mode])
  | .queryCursor p id => some (p, 0x26, [id])
  | .readNext p id tag wait => some (p, 0x27, id :: tag :: bytes2 wait)
  | .readWindow p offset count => some (p, 0x28, bytes2 offset ++ [count])
  | .takeCompletion p which => some (p, 0x30, [which])
  | .takeNotice p which => some (p, 0x31, [which])
  | .claimService p tag => some (p, 0x40, [tag])
  | .releaseService p => some (p, 0x41, [])
  | .format p tag => some (p, 0x42, [tag])
  | .readConfig p which => some (p, 0x50, [which])
  | .editStream p stream writers closed => some (p, 0x51, [stream, writers, closed])
  | .editRights p rights => some (p, 0x52, [rights])
  | .editPolicy p policy hold target slice => some (p, 0x53, [policy, hold, target, slice])
  | .commitConfig p tag => some (p, 0x54, [tag])
  | .lockConfig p => some (p, 0x55, [])
  | .frameError _ _ => none
  | .resetAsserted _ => none
  | .resetReleased => none
  | .mountScan _ => none
  | .appendWriteOut _ => none
  | .fetchGrant _ => none
  | .retireGrant _ => none
  | .configProgramGrant _ => none
  | .eraseStart => none
  | .eraseSliceElapsed => none
  | .eraseResume => none
  | .eraseAttemptEnd _ _ => none
  | .leaseExpiry _ => none
  | .holdTimerExpiry => none
  | .waitDeadline _ => none
  | .tickCounterAdvance => none

/-- R177: a frame of a code and its operand bytes, with its check byte. -/
def frameOf (code : Byte) (operands : List Byte) : List Byte :=
  let body := code :: BitVec.ofNat 8 operands.length :: operands
  body ++ [crc8 body]

/-- R177, R192: the port and the frame of a host command. -/
def encodeFrame (i : Instr) : Option (Port × List Byte) :=
  (encodeCommand i).map fun c => (c.1, frameOf c.2.1 c.2.2)

end Sys2Proof
end

