-- ==== Sys2Proof/Machine/State.lean ====
section
/-! DEFINITION. The state of the part as plain data, block by block as 00_scope.md lists the blocks, and the
state right after a reset. Each field names the rule that gives it. -/

namespace Sys2Proof.Machine

/-- The flash array's bytes that are not erased, by address, in canonical form (Machine/Memory.lean). -/
abbrev Memory := List Host.Cell

/-- R186: the acceptance and outcome codes, in the order of section 11.8. -/
inductive Code where
  | ok | queued | frameError | notAttached | wrongMode | noRight | badStream | streamClosed | badLength
  | badOffset | badValue | badSequence | incomplete | bufferBusy | bufferFaulted | noSlot | noCursor | busy
  | locked | gone | full | mediaFault | cancelled | endOfJournal | empty
deriving DecidableEq, Repr

/-- R121: the part's mode. -/
inductive Mode where
  | mounting | run | draining | service | frozen
deriving DecidableEq, Repr

/-- A set drawn from PORT_A, PORT_B and PORT_C (R138). -/
structure PortSet where
  a : Bool
  b : Bool
  c : Bool
deriving DecidableEq, Repr

/-- R1, R49: the kind of a record. -/
inductive RecordKind where
  | data | mount | format | config
deriving DecidableEq, Repr

/-- R22, R25: why a segment is out of service. -/
inductive BadReason where
  | eraseFail | programFail | worn
deriving DecidableEq, Repr

/-! ### Completion unit (chapter 10) -/

/-- R166: the kind of the long command a completion answers. -/
inductive RequestKind where
  | commit | readNext | claimService | commitConfig | format
deriving DecidableEq, Repr

/-- R166: a completion entry. A field the entry does not carry is 0 (R189). -/
structure Completion where
  kind : RequestKind
  tag : Byte
  outcome : Code
  sequence : Nat
  stream : Nat
  length : Nat
deriving DecidableEq, Repr

/-- R122, R170: the cause a MODE_CHANGED notice carries. -/
inductive ModeCause where
  | mounted | claimed | drained | released | formatted | media | sequence
deriving DecidableEq, Repr

/-- R170: the kind a MEDIA_FAULT notice carries. -/
inductive FaultKind where
  | open | seal | record | eraseFail | worn | programFail | config
deriving DecidableEq, Repr

/-- R170: the notices. -/
inductive Notice where
  | modeChanged (mode : Mode) (cause : ModeCause)
  | cursorOverrun (id : Nat) (position : Nat)
  | cursorDemoted (id : Nat)
  | cursorClosed (id : Nat)
  | pressure (freeCount : Nat)
  | mediaFault (segment : Nat) (kind : FaultKind)
  | configChanged (version : Nat)
  | serviceClaim (port : Port) (claimed : Bool)
deriving DecidableEq, Repr

/-- R165: one port's completion unit. -/
structure CompletionUnit where
  /-- completion entries, oldest first; at most 16 with the reservations -/
  queue : List Completion
  /-- accepted long commands whose completion is neither posted nor dropped -/
  reserved : Nat
  /-- notices, oldest first; at most 8 -/
  notices : List Notice
  /-- notices discarded since the list was last emptied; stops at 255 -/
  lost : Nat
  /-- the answer of the last TAKE COMPLETION NEXT; none is EMPTY -/
  lastCompletion : Option Completion
  /-- the answer of the last TAKE NOTICE NEXT with the lost count reported; none is EMPTY -/
  lastNotice : Option (Notice × Nat)
deriving DecidableEq, Repr

/-- R165, last column; R174. -/
def CompletionUnit.cleared : CompletionUnit :=
  { queue := [], reserved := 0, notices := [], lost := 0, lastCompletion := none, lastNotice := none }

/-! ### Staging unit (chapter 3) -/

/-- R43: the state of a staging buffer. -/
inductive BufferState where
  | empty | loading | faulted | queued | writing
deriving DecidableEq, Repr

/-- Which of a port's two staging buffers. -/
inductive BufferId where
  | zero | one
deriving DecidableEq, Repr

/-- R43: a staging buffer. The fill level is the number of bytes loaded. -/
structure Buffer where
  state : BufferState
  stream : Nat
  length : Nat
  bytes : List Byte
  tag : Byte
deriving DecidableEq, Repr

/-- R43: an EMPTY buffer holds no field. -/
def Buffer.cleared : Buffer := { state := .empty, stream := 0, length := 0, bytes := [], tag := 0 }

/-! ### Port interface (chapter 11) -/

/-- R176: the link state. -/
inductive LinkState where
  | idle | command | response
deriving DecidableEq, Repr

/-- R177: what a port shifts out after a command frame. -/
structure Response where
  code : Code
  result : List Byte
deriving DecidableEq, Repr

/-- R176: one port's interface, with its completion unit and its staging unit. -/
structure PortUnit where
  link : LinkState
  attached : Bool
  /-- in units of 100 ms; 0 is no lease -/
  lease : Byte
  /-- stopped, or the milliseconds left (R182) -/
  leaseTimer : Option Nat
  maskCompletions : Bool
  maskNotices : Bool
  detachedByLease : Bool
  lastRejected : Bool
  /-- R85: the read window's image; the empty list is an empty window -/
  window : List Byte
  /-- R178: the status byte last shifted out -/
  statusOut : Byte
  /-- R177: the response last given -/
  response : Option Response
  lists : CompletionUnit
  buffer0 : Buffer
  buffer1 : Buffer
deriving DecidableEq, Repr

/-- R176, R165, R43: a port after power-on or RESET. -/
def PortUnit.reset : PortUnit :=
  { link := .idle, attached := false, lease := 0, leaseTimer := none, maskCompletions := false,
    maskNotices := false, detachedByLease := false, lastRejected := false, window := [], statusOut := 0,
    response := none, lists := .cleared, buffer0 := .cleared, buffer1 := .cleared }

/-! ### Append writer (chapters 3 and 5) -/

/-- Who an append queue entry comes from, with the fields that only one of the two has (R49). -/
inductive Source where
  /-- a DATA entry: its port, its staging buffer, its tag, and whether the outcome is reported -/
  | host (port : Port) (buffer : BufferId) (tag : Byte) (report : Bool)
  /-- a system entry with its payload bytes -/
  | part (payload : List Byte)
deriving DecidableEq, Repr

/-- R49: an entry of the append queue. -/
structure Entry where
  kind : RecordKind
  source : Source
  stream : Nat
  length : Nat
  crc : BitVec 32
deriving DecidableEq, Repr

/-- R52: the writer's state with respect to the head of the queue. -/
inductive WriterState where
  | idle | waiting | requesting | writing
deriving DecidableEq, Repr

/-- R102: the pressure state. -/
inductive Pressure where
  | none | waiting | blocked
deriving DecidableEq, Repr

/-- R49, R52, R102: the append writer. -/
structure Writer where
  queue : List Entry
  nextSequence : Nat
  newestDurable : Nat
  state : WriterState
  /-- stopped, or the milliseconds left (R105) -/
  holdTimer : Option Nat
  pressure : Pressure
deriving DecidableEq, Repr

/-! ### Segment manager (chapter 2) -/

/-- R24: the state of a journal segment. -/
inductive SegState where
  | free | open | sealed | dirty | erasing | bad
deriving DecidableEq, Repr

/-- R25: a map entry. A field that its state does not give is 0 or none. -/
structure SegEntry where
  state : SegState
  generation : Nat
  first : Nat
  last : Nat
  fill : Option Nat
  eraseCount : Option Nat
  faults : Nat
  bad : Option BadReason
deriving DecidableEq, Repr

/-- An entry of unknown history (R24 gives the map no value between a reset and mount; log 3). -/
def SegEntry.unknown : SegEntry :=
  { state := .dirty, generation := 0, first := 0, last := 0, fill := none, eraseCount := none, faults := 0,
    bad := none }

/-- R24, R29 to R32, R41: the segment manager. The map's entry k is that of segment k + 2. -/
structure SegmentManager where
  map : List SegEntry
  ring : List Nat
  pool : List Nat
  dirty : List Nat
  generation : Nat
  usable : Nat
deriving DecidableEq, Repr

/-! ### Reclaim unit (chapter 5) -/

/-- R94: where a reclaim target comes from. -/
inductive TargetSource where
  | ring | dirty
deriving DecidableEq, Repr

/-- R94: the reclaim unit. -/
inductive Reclaim where
  | idle
  | selecting
  | erasing (segment : Nat) (source : TargetSource) (attempt : Nat)
deriving DecidableEq, Repr

/-! ### Cursor unit (chapter 4) -/

/-- R68: a cursor's mode. -/
inductive CursorMode where
  | retaining | lossy
deriving DecidableEq, Repr

/-- R81: a location hint. -/
structure Hint where
  segment : Nat
  generation : Nat
  line : Nat
deriving DecidableEq, Repr

/-- R68: the outstanding READ NEXT of a cursor. `deadline` is the milliseconds left, 0 when it has passed. -/
structure Request where
  tag : Byte
  wait : Nat
  deadline : Option Nat
deriving DecidableEq, Repr

/-- R68: a cursor's state, with the request it has in FETCHING and WAITING. -/
inductive CursorState where
  | idle
  | fetching (request : Request)
  | waiting (request : Request)
deriving DecidableEq, Repr

/-- R68: a cursor. Its id is its slot. -/
structure Cursor where
  owner : Port
  filter : BitVec 16
  mode : CursorMode
  delivered : Nat
  acked : Nat
  hint : Option Hint
  state : CursorState
  overrun : Nat
deriving DecidableEq, Repr

/-- R80: an entry of the fetch list. -/
structure FetchEntry where
  id : Nat
  owner : Port
  held : Bool
deriving DecidableEq, Repr

/-- R68, R80: the cursor table of 12 slots and the fetch list. -/
structure CursorUnit where
  table : List (Option Cursor)
  fetchList : List FetchEntry
deriving DecidableEq, Repr

/-! ### Array sequencer (chapter 6) -/

/-- R113: who asked for an erase. -/
inductive Requester where
  | reclaim | format | store
deriving DecidableEq, Repr

/-- R113: an entry of the erase list. -/
structure Erase where
  requester : Requester
  segment : Nat
  attempt : Nat
deriving DecidableEq, Repr

/-- R113: the state of the head erase. -/
inductive HeadState where
  | pending | active | suspended
deriving DecidableEq, Repr

/-- R109: the progress slice timer. -/
inductive Slice where
  | stopped
  | running (left : Nat)
  | elapsed
deriving DecidableEq, Repr

/-- R96: the segment a retire grant chooses, and where it comes from. -/
structure Target where
  segment : Nat
  source : TargetSource
deriving DecidableEq, Repr

/-- R109, R110: the requester that has been granted the array and still holds it. An ACTIVE erase holds the array by its
head state. -/
inductive Grant where
  | none
  /-- R118: the mount scan -/
  | mountScan
  /-- the reclaim unit: a free array is kept for its retire request, which stands ahead of every other; R96's grant is
  the event RETIRE_GRANT itself (log 12) -/
  | retire
  /-- the reclaim unit, in a retire grant that has chosen, marked and taken its target and has not yet given the array
  back: its erase is requested at the end of the grant (R113; log 12) -/
  | retiring
  /-- the append writer -/
  | append
  /-- a port's fetch, with the cursor it reads for, none when what it finds is discarded (R72, R89, R111) -/
  | fetch (port : Port) (cursor : Option Nat)
  /-- a configuration program -/
  | config
  /-- the head erase, about to be started (R112, order 9) -/
  | start
  /-- the head erase, about to be resumed (R112, order 8) -/
  | resume
deriving DecidableEq, Repr

/-- R109: the array sequencer. The current operation is `grant`, or the head erase when it is ACTIVE. -/
structure Sequencer where
  grant : Grant
  erases : List Erase
  head : HeadState
  slice : Slice
  lastFetch : Port
  fetchCount : Nat
deriving DecidableEq, Repr

/-! ### Mode controller (chapter 7) -/

/-- R121: the claim phase. -/
inductive ClaimPhase where
  | none | draining | active | ending
deriving DecidableEq, Repr

/-- R121: the claim request whose completion is still to be posted. -/
structure ClaimRequest where
  tag : Byte
  report : Bool
deriving DecidableEq, Repr

/-- R121: the service operations. -/
inductive OperationKind where
  | commitConfig | format
deriving DecidableEq, Repr

/-- R121: the service operation in flight. -/
structure ServiceOperation where
  kind : OperationKind
  tag : Byte
  report : Bool
deriving DecidableEq, Repr

/-- R121: the frozen cause, a set. -/
structure FrozenCause where
  media : Bool
  sequence : Bool
deriving DecidableEq, Repr

/-- R133 to R135: where a FORMAT in flight stands. -/
inductive FormatStep where
  /-- no FORMAT in flight -/
  | none
  /-- waits for its grant to seal the OPEN segment (R133, step 2) -/
  | seal
  /-- the copy write runs (R133, step 3) -/
  | copyWrite
  /-- waits for its grant to retire the ring head (R134, step 1) -/
  | retireRing
  /-- waits for the reclaim unit's erase to end (R134, step 2) -/
  | awaitReclaim
  /-- waits for its grant to program RETIRE on the segment it has taken (R134, step 3); the reason it was
  BAD for, if it was -/
  | retireSegment (segment : Nat) (wasBad : Option BadReason)
  /-- waits for the erase of the segment to end (R134, step 3) -/
  | erase (segment : Nat) (wasBad : Option BadReason)
  /-- waits for the outcome of the FORMAT record (R135, step 3) -/
  | record
deriving DecidableEq, Repr

/-- R121: the mode controller. -/
structure ModeController where
  mode : Mode
  claimant : Option Port
  phase : ClaimPhase
  request : Option ClaimRequest
  operation : Option ServiceOperation
  frozen : FrozenCause
  format : FormatStep
deriving DecidableEq, Repr

/-! ### Configuration store (chapter 8) -/

/-- R138: an entry of the stream table. -/
structure StreamEntry where
  writers : PortSet
  closed : Bool
deriving DecidableEq, Repr

/-- R138: the pressure policy. -/
inductive Policy where
  | hold | refuse | demote
deriving DecidableEq, Repr

/-- R138: a configuration record; its CRC is computed from the fields. -/
structure ConfigRecord where
  version : Nat
  streams : List StreamEntry
  rights : PortSet
  policy : Policy
  holdLimit : Nat
  freeTarget : Nat
  eraseSlice : Nat
  sequenceFloor : Nat
  mountFloor : Nat
  formatCount : Nat
deriving DecidableEq, Repr

/-- R139: the default record. -/
def ConfigRecord.defaults : ConfigRecord :=
  { version := 0
    streams := { writers := { a := false, b := false, c := false }, closed := false } ::
      List.replicate 15 { writers := { a := true, b := true, c := true }, closed := false }
    rights := { a := true, b := true, c := true }
    policy := .hold
    holdLimit := 50
    freeTarget := 3
    eraseSlice := 4
    sequenceFloor := 1
    mountFloor := 0
    formatCount := 0 }

/-- R137, R153: the copy selector, and the finding "configuration source". -/
inductive Selector where
  | copy0 | copy1 | default
deriving DecidableEq, Repr

/-- R137: the steps of a copy write. -/
inductive CopyStep where
  | erase | program | record
deriving DecidableEq, Repr

/-- R137: the store's operation. -/
inductive StoreOperation where
  | none
  | copyWrite (for_ : OperationKind) (step : CopyStep)
deriving DecidableEq, Repr

/-- R137: the configuration store. -/
structure ConfigStore where
  active : ConfigRecord
  pendingCfg : Option ConfigRecord
  selector : Selector
  lock : Bool
  operation : StoreOperation
  /-- the record the copy write in progress puts into the target (R144, R133) -/
  candidate : Option ConfigRecord
deriving DecidableEq, Repr

/-! ### Mount unit (chapter 9) -/

/-- R152: the phase of the mount unit. -/
inductive MountPhase where
  | scanning | recording | ended
deriving DecidableEq, Repr

/-- R152, R18: the findings of the last mount. -/
structure Findings where
  mountNumber : Nat
  torn : Nat
  dirty : Nat
  bad : Nat
  service : Nat
  source : Selector
  sealedEarly : Bool
  causes : FrozenCause
  recordSequence : Nat
deriving DecidableEq, Repr

/-- R152: a reset discards the findings (log 5). -/
def Findings.discarded : Findings :=
  { mountNumber := 0, torn := 0, dirty := 0, bad := 0, service := 0, source := .default, sealedEarly := false,
    causes := { media := false, sequence := false }, recordSequence := 0 }

/-- R152, R161: the mount unit, with the current mount number. -/
structure MountUnit where
  phase : MountPhase
  number : Nat
  findings : Findings
deriving DecidableEq, Repr

/-! ### The part -/

/-- The part, block by block. -/
structure State where
  /-- the flash array (R21) -/
  array : Memory
  /-- R151: the RESET line is asserted or the supply is below the threshold -/
  inReset : Bool
  portA : PortUnit
  portB : PortUnit
  portC : PortUnit
  writer : Writer
  segs : SegmentManager
  reclaim : Reclaim
  cursors : CursorUnit
  seq : Sequencer
  control : ModeController
  store : ConfigStore
  mount : MountUnit
  /-- R15: the tick counter -/
  tick : BitVec 32
  /-- the MODEL's own field: the commands that wait, first in, first out (log 13) -/
  pending : List Instr
deriving DecidableEq, Repr

/-- The reasons a step could stop with a fault: there is none. A failed program or erase, a bad frame and a
refused command are outcomes the rules give an effect (R35, R37, R58, R99, R146, R177, R179). -/
inductive Fault where
deriving DecidableEq, Repr

/-- Why a step has no meaning. -/
inductive Refusal where
  /-- raised by `exec` for a command with no meaning in this model; no arm raises it. Safe. -/
  | notModelled (mnemonic : String)
deriving DecidableEq, Repr

/-- R151, second paragraph: every block's volatile state at its reset value, mount begun with the scan's
grant of the array. The array keeps what it holds. DESIGN CHOICE: the values that R151 leaves undefined until the mount
sets them (log 2 to 5), and those of the link that no rule gives (log 6). -/
def State.afterReset (array : Memory) : State :=
  { array := array
    inReset := false
    portA := .reset
    portB := .reset
    portC := .reset
    writer :=
      { queue := [], nextSequence := 0, newestDurable := 0, state := .idle, holdTimer := none, pressure := .none }
    segs :=
      { map := List.replicate Config.journalCount .unknown, ring := [], pool := []
        dirty := List.range' Config.firstJournal Config.journalCount, generation := 1
        usable := Config.journalCount }
    reclaim := .idle
    cursors := { table := List.replicate 12 none, fetchList := [] }
    seq := { grant := .mountScan, erases := [], head := .pending, slice := .stopped, lastFetch := .c, fetchCount := 0 }
    control :=
      { mode := .mounting, claimant := none, phase := .none, request := none, operation := none
        frozen := { media := false, sequence := false }, format := .none }
    store :=
      { active := .defaults, pendingCfg := none, selector := .default, lock := false, operation := .none
        candidate := none }
    mount := { phase := .scanning, number := 0, findings := .discarded }
    tick := 0
    pending := [] }

/-- The part right after a reset, with a blank array (log 1). -/
def State.reset : State := State.afterReset []

end Sys2Proof.Machine
end

