-- ==== Sys2Proof/Machine/Memory.lean ====
section
/-! DEFINITION. The flash array as an addressed memory: one byte, a run of bytes, a program with its verify
(R117), and the erase of a segment. -/

namespace Sys2Proof.Machine

/-- One byte of the array. A byte that is not listed is erased (R187). -/
def Memory.read : Memory → Nat → Byte
  | [], _ => erasedByte
  | (k, v) :: m, a => if a = k then v else Memory.read m a

/-- Put one byte in place, keeping the canonical form: a byte that becomes erased is not listed. -/
def Memory.put : Memory → Nat → Byte → Memory
  | [], a, b => if b = erasedByte then [] else [(a, b)]
  | (k, v) :: m, a, b =>
    if a < k then
      if b = erasedByte then (k, v) :: m else (a, b) :: (k, v) :: m
    else if a = k then
      if b = erasedByte then m else (a, b) :: m
    else (k, v) :: Memory.put m a b

/-- Store one byte. The array has no byte at or beyond 4 MiB (00_scope.md), and nothing is stored there
(log 22). -/
def Memory.write (m : Memory) (a : Nat) (b : Byte) : Memory :=
  if a < Config.arrayBytes then m.put a b else m

/-- The canonical form from an address on: addresses strictly rising, no listed byte erased, all in the array. -/
def Memory.wfFrom : Nat → Memory → Bool
  | _, [] => true
  | low, (k, v) :: m => low ≤ k && k < Config.arrayBytes && v != erasedByte && Memory.wfFrom (k + 1) m

/-- The canonical form of the array's listing. -/
def Memory.wf (m : Memory) : Bool := Memory.wfFrom 0 m

/-- `n` bytes from an address on. -/
def Memory.readBytes (m : Memory) (a : Nat) : Nat → List Byte
  | 0 => []
  | n + 1 => m.read a :: m.readBytes (a + 1) n

/-- Store a run of bytes from an address on. -/
def Memory.writeBytes (m : Memory) (a : Nat) : List Byte → Memory
  | [] => m
  | b :: bytes => (m.write a b).writeBytes (a + 1) bytes

/-- The number a run of bytes holds (R187). -/
def Memory.number (m : Memory) (a n : Nat) : Nat := ofBe (m.readBytes a n)

/-- Whether `n` bytes from an address on are erased. -/
def Memory.blank (m : Memory) (a n : Nat) : Bool := allErased (m.readBytes a n)

/-- What programming `data` over `old` leaves, byte by byte: a program clears bits and sets none
(00_scope.md, "Programming and erasing"). -/
def programmedBytes : List Byte → List Byte → List Byte
  | o :: old, d :: data => (o &&& d) :: programmedBytes old data
  | _, _ => []

/-- The bytes a program writes, by the array's answer: `data`, or what the answer says was left of it, with
bytes beyond the answer not programmed (log 7). -/
def attempted : List Byte → Programmed → List Byte
  | data, .done => data
  | data, .left bytes => (List.range data.length).map fun i => bytes.getD i erasedByte

/-- One program at an address, with its verify (R117): the array after it, and whether the words read back
as they were to be programmed. -/
def Memory.program (m : Memory) (a : Nat) (data : List Byte) (answer : Programmed) : Memory × Bool :=
  let after := programmedBytes (m.readBytes a data.length) (attempted data answer)
  (m.writeBytes a after, after == data)

/-- The address of a byte of a segment (R21). -/
def address (segment offset : Nat) : Nat := Config.segmentBytes * segment + offset

/-- The address of a line of a segment (R21). -/
def lineAddress (segment line : Nat) : Nat := address segment (Config.lineBytes * line)

/-- A wholly erased segment: nothing of it is listed. -/
def Memory.clearSegment (m : Memory) (segment : Nat) : Memory :=
  m.filter fun c => c.1 < address segment 0 || address (segment + 1) 0 ≤ c.1

/-- The bytes an erase leaves in its segment; an offset beyond the segment names no byte of it. -/
def Memory.leaveBytes (m : Memory) (segment : Nat) : List (Nat × Byte) → Memory
  | [] => m
  | (o, b) :: rest =>
    (if o < Config.segmentBytes then m.write (address segment o) b else m).leaveBytes segment rest

/-- The bytes of a segment that an erase leaves (R116, R119). -/
def Memory.eraseSegment (m : Memory) (segment : Nat) : Erased → Memory
  | .clean => m.clearSegment segment
  | .left bytes => (m.clearSegment segment).leaveBytes segment bytes

/-- The erase's verify: no byte of the segment is listed, so every byte of it is erased. -/
def Memory.segmentBlank (m : Memory) (segment : Nat) : Bool :=
  m.all fun c => c.1 < address segment 0 || address (segment + 1) 0 ≤ c.1

end Sys2Proof.Machine
end

