-- ==== Sys2Proof/Machine/Layout.lean ====
section
/-! DEFINITION. The byte layouts of chapter 12: codes, record headers and marks, segment header groups, the
configuration record, system record payloads, the read window, completion entries and notices. -/

namespace Sys2Proof.Machine

/-! ### Codes (R186, R188, R191) -/

/-- R192: codes 00h to 18h in the order of section 11.8. -/
def Code.byte : Code → Byte
  | .ok => 0x00 | .queued => 0x01 | .frameError => 0x02 | .notAttached => 0x03 | .wrongMode => 0x04
  | .noRight => 0x05 | .badStream => 0x06 | .streamClosed => 0x07 | .badLength => 0x08 | .badOffset => 0x09
  | .badValue => 0x0A | .badSequence => 0x0B | .incomplete => 0x0C | .bufferBusy => 0x0D
  | .bufferFaulted => 0x0E | .noSlot => 0x0F | .noCursor => 0x10 | .busy => 0x11 | .locked => 0x12
  | .gone => 0x13 | .full => 0x14 | .mediaFault => 0x15 | .cancelled => 0x16 | .endOfJournal => 0x17
  | .empty => 0x18

/-- R188: kind codes. -/
def RecordKind.byte : RecordKind → Byte
  | .data => 0x01 | .mount => 0x02 | .format => 0x03 | .config => 0x04

/-- R188, R191: a port as an origin, a claimant or a SERVICE_CLAIM field. -/
def portByte : Port → Byte
  | .a => 0x01 | .b => 0x02 | .c => 0x03

/-- R191: none 00h, else the port. -/
def optionalPortByte : Option Port → Byte
  | none => 0x00
  | some p => portByte p

/-- R188: the origin PART. -/
def partByte : Byte := 0x04

/-- R188: bad reasons. -/
def BadReason.byte : BadReason → Byte
  | .eraseFail => 0x01 | .programFail => 0x02 | .worn => 0x03

/-- R191: modes, as in the status byte. -/
def Mode.byte : Mode → Byte
  | .mounting => 0x00 | .run => 0x01 | .draining => 0x02 | .service => 0x03 | .frozen => 0x04

/-- R191: causes of MODE_CHANGED. -/
def ModeCause.byte : ModeCause → Byte
  | .mounted => 0x01 | .claimed => 0x02 | .drained => 0x03 | .released => 0x04 | .formatted => 0x05
  | .media => 0x06 | .sequence => 0x07

/-- R191: kinds of MEDIA_FAULT. -/
def FaultKind.byte : FaultKind → Byte
  | .open => 0x01 | .seal => 0x02 | .record => 0x03 | .eraseFail => 0x04 | .worn => 0x05
  | .programFail => 0x06 | .config => 0x07

/-- R39: a bad reason as the kind of its MEDIA_FAULT notice. -/
def BadReason.faultKind : BadReason → FaultKind
  | .eraseFail => .eraseFail | .programFail => .programFail | .worn => .worn

/-- R191: request kinds. -/
def RequestKind.byte : RequestKind → Byte
  | .commit => 0x01 | .readNext => 0x02 | .claimService => 0x03 | .commitConfig => 0x04 | .format => 0x05

/-- R191: segment states. -/
def SegState.byte : SegState → Byte
  | .free => 0x00 | .open => 0x01 | .sealed => 0x02 | .dirty => 0x03 | .erasing => 0x04 | .bad => 0x05

/-- R191: cursor states. -/
def CursorState.byte : CursorState → Byte
  | .idle => 0x00 | .fetching _ => 0x01 | .waiting _ => 0x02

/-- R191: cursor modes. -/
def CursorMode.byte : CursorMode → Byte
  | .retaining => 0x00 | .lossy => 0x01

/-- R191: pressure states. -/
def Pressure.byte : Pressure → Byte
  | .none => 0x00 | .waiting => 0x01 | .blocked => 0x02

/-- R191: the frozen cause, MEDIA at position 0, SEQUENCE at position 1. -/
def FrozenCause.byte (f : FrozenCause) : Byte :=
  (if f.media then 0x01#8 else 0) ||| (if f.sequence then 0x02#8 else 0)

/-- R191: configuration source and copy selector. -/
def Selector.byte : Selector → Byte
  | .copy0 => 0x00 | .copy1 => 0x01 | .default => 0x02

/-- R191: pressure policies. -/
def Policy.byte : Policy → Byte
  | .hold => 0x00 | .refuse => 0x01 | .demote => 0x02

/-- R189: a set of ports, PORT_A at the least significant position. -/
def PortSet.byte (s : PortSet) : Byte :=
  (if s.a then 0x01#8 else 0) ||| (if s.b then 0x02#8 else 0) ||| (if s.c then 0x04#8 else 0)

/-- The set a byte of ports names in its three low positions. -/
def PortSet.ofByte (b : Byte) : PortSet :=
  { a := b.getLsbD 0, b := b.getLsbD 1, c := b.getLsbD 2 }

/-- Whether a port is in a set. -/
def PortSet.has (s : PortSet) : Port → Bool
  | .a => s.a
  | .b => s.b
  | .c => s.c

/-- The empty set of ports. -/
def PortSet.isEmpty (s : PortSet) : Bool := !(s.a || s.b || s.c)

/-! ### Records (R1, R4, R5, R7 to R9, R188, R190) -/

/-- R188: the COMMIT pattern. -/
def commitPattern : Word := 0x5A5A00C3#32
/-- R188: the VOID pattern. -/
def voidPattern : Word := 0x00000000#32
/-- R188: the ERASED pattern. -/
def erasedPattern : Word := 0x5A5A0001#32
/-- R188: the OPENED pattern. -/
def openedPattern : Word := 0x5A5A0002#32
/-- R188: the SEALED pattern. -/
def sealedPattern : Word := 0x5A5A0003#32
/-- R188: the RETIRE pattern. -/
def retirePattern : Word := 0x00000000#32
/-- R188: the BAD pattern. -/
def badPattern : Word := 0x00000000#32

/-- The fields of a record header as stored (R1, R190). -/
structure Header where
  kind : Byte
  stream : Byte
  origin : Byte
  sequence : Nat
  mountNumber : Nat
  tick : Nat
  length : Nat
  payloadCrc : Nat
  headerCrc : Nat
deriving DecidableEq, Repr

/-- R190: the 22 bytes that come before the header CRC. -/
def headerBody (kind stream origin : Byte) (sequence mountNumber tick length crc : Nat) : List Byte :=
  [kind, stream, origin, 0x00#8] ++ be 6 sequence ++ be 2 mountNumber ++ be 4 tick ++ be 2 length ++ be 4 crc

/-- R190: header line 0 and the first half of header line 1. -/
def headerBytes (kind stream origin : Byte) (sequence mountNumber tick length crc : Nat) : List Byte :=
  let body := headerBody kind stream origin sequence mountNumber tick length crc
  body ++ be 2 (crc16 body).toNat

/-- R4: the extent of a record in lines. -/
def extent (length : Nat) : Nat := 2 + (length + 15) / 16

/-- The header stored at a line of a segment (R190). -/
def readHeader (m : Memory) (segment line : Nat) : Header :=
  let at_ := lineAddress segment line
  { kind := m.read at_
    stream := m.read (at_ + 1)
    origin := m.read (at_ + 2)
    sequence := m.number (at_ + 4) 6
    mountNumber := m.number (at_ + 10) 2
    tick := m.number (at_ + 12) 4
    length := m.number (at_ + 16) 2
    payloadCrc := m.number (at_ + 18) 4
    headerCrc := m.number (at_ + 22) 2 }

/-- R5: whether the header check of the record at a line passes. -/
def headerPasses (m : Memory) (segment line : Nat) : Bool :=
  let at_ := lineAddress segment line
  (crc16 (m.readBytes at_ 22)).toNat == m.number (at_ + 22) 2

/-- R7: the COMMIT mark is read strictly. -/
def commitPresent (m : Memory) (segment line : Nat) : Bool :=
  m.readBytes (lineAddress segment line + 24) 4 == wordBytes commitPattern

/-- R7: the VOID mark is read leniently. -/
def voidPresent (m : Memory) (segment line : Nat) : Bool :=
  !m.blank (lineAddress segment line + 28) 4

/-- R8, R9: what stands at a position where a record could start. -/
inductive Found where
  /-- header line 0 is wholly erased (R8) -/
  | blank
  /-- VOIDED, the header check passes -/
  | voided (header : Header)
  /-- VOIDED, the header check fails -/
  | voidedUnreadable
  | invalid
  | durable (header : Header)
  | torn (header : Header)
deriving DecidableEq, Repr

/-- R8, R9: the state of the record at a line, by the first row of R9's table that applies. DEDUCED (log 21): a header the
part never writes is read by the letter. DESIGN CHOICE (log 34): a wholly erased line 0 is blank whatever stands in the
words after it, the VOID word of a failed header included. -/
def recordAt (m : Memory) (segment line : Nat) : Found :=
  if m.blank (lineAddress segment line) Config.lineBytes then .blank
  else if voidPresent m segment line then
    if headerPasses m segment line then .voided (readHeader m segment line) else .voidedUnreadable
  else if !headerPasses m segment line then .invalid
  else if commitPresent m segment line then .durable (readHeader m segment line)
  else .torn (readHeader m segment line)

/-- R4: the payload lines, the last padded with erased bytes. -/
def payloadLines : Nat → List Byte → List (List Byte)
  | 0, _ => []
  | n + 1, bytes =>
    let line := bytes.take Config.lineBytes
    (line ++ List.replicate (Config.lineBytes - line.length) erasedByte) ::
      payloadLines n (bytes.drop Config.lineBytes)

/-! ### Segment header groups (R22, R23, R190) -/

/-- R23: how a group with a check is read. -/
inductive Reading where
  | absent | valid | damaged
deriving DecidableEq, Repr

/-- A group's bytes with its check (R188). -/
def withCheck (body : List Byte) : List Byte := body ++ be 2 (crc16 body).toNat

/-- R190: the ERASED group, from offset 0. -/
def erasedGroup (count : Nat) : List Byte := withCheck (wordBytes erasedPattern ++ be 3 count ++ [0x00#8])

/-- R190: the OPENED group, from offset 16. -/
def openedGroup (generation first mountNumber : Nat) : List Byte :=
  withCheck (wordBytes openedPattern ++ be 4 generation ++ be 6 first ++ be 2 mountNumber)

/-- R190: the SEALED group, from offset 36. -/
def sealedGroup (last : Nat) : List Byte := withCheck (wordBytes sealedPattern ++ be 6 last)

/-- R190: the RETIRE word, at offset 12. -/
def retireWord : List Byte := wordBytes retirePattern

/-- R190: the BAD group, from offset 48. -/
def badGroup (reason : BadReason) : List Byte := withCheck (wordBytes badPattern ++ [reason.byte, 0x00#8])

/-- R190: offsets of the groups in the segment header. -/
def erasedOffset : Nat := 0
/-- R190. -/
def retireOffset : Nat := 12
/-- R190. -/
def openedOffset : Nat := 16
/-- R190. -/
def sealedOffset : Nat := 36
/-- R190. -/
def badOffset : Nat := 48

/-- R23: a group of `n` bytes with its check, in words up to `words` bytes, read strictly. -/
def readGroup (m : Memory) (segment offset : Nat) (pattern : Word) (n words : Nat) : Reading :=
  let bytes := m.readBytes (address segment offset) n
  if m.blank (address segment offset) words then .absent
  else if bytes.take 4 == wordBytes pattern && (crc16 (bytes.take (n - 2))).toNat == ofBe (bytes.drop (n - 2))
  then .valid
  else .damaged

/-- R23: the ERASED group as read. -/
def readErased (m : Memory) (segment : Nat) : Reading := readGroup m segment erasedOffset erasedPattern 10 12
/-- R23: the OPENED group as read. -/
def readOpened (m : Memory) (segment : Nat) : Reading := readGroup m segment openedOffset openedPattern 18 20
/-- R23: the SEALED group as read. -/
def readSealed (m : Memory) (segment : Nat) : Reading := readGroup m segment sealedOffset sealedPattern 12 12
/-- R23: RETIRE is read leniently. -/
def retirePresent (m : Memory) (segment : Nat) : Bool := !m.blank (address segment retireOffset) 4
/-- R23: BAD is read leniently. -/
def badPresent (m : Memory) (segment : Nat) : Bool := !m.blank (address segment badOffset) 8

/-- R190: the erase count of a valid ERASED group. -/
def readEraseCount (m : Memory) (segment : Nat) : Nat := m.number (address segment 4) 3
/-- R190: the generation of a valid OPENED group. -/
def readGeneration (m : Memory) (segment : Nat) : Nat := m.number (address segment 20) 4
/-- R190: the first sequence of a valid OPENED group. -/
def readFirst (m : Memory) (segment : Nat) : Nat := m.number (address segment 24) 6
/-- R190: the mount number of a valid OPENED group. -/
def readOpenedMount (m : Memory) (segment : Nat) : Nat := m.number (address segment 30) 2
/-- R190: the last sequence of a valid SEALED group. -/
def readLast (m : Memory) (segment : Nat) : Nat := m.number (address segment 40) 6

/-- The reason a byte names (R188). A byte that is none of the codes gives a free value (log 20). -/
def badReasonOf (b : Byte) : BadReason :=
  if b = 0x01#8 then .eraseFail
  else if b = 0x02#8 then .programFail
  else if b = 0x03#8 then .worn
  else if (Config.unlistedBadReason b).val = 0 then .eraseFail
  else if (Config.unlistedBadReason b).val = 1 then .programFail
  else .worn

/-- R23: the reason of a BAD group: from the group if its check passes, else PROGRAM_FAIL. -/
def readBadReason (m : Memory) (segment : Nat) : BadReason :=
  let bytes := m.readBytes (address segment badOffset) 8
  if (crc16 (bytes.take 6)).toNat = ofBe (bytes.drop 6) then badReasonOf (bytes.getD 4 0) else .programFail

/-! ### Configuration record (R138, R139, R190) -/

/-- R190: a stream table entry in one byte. -/
def StreamEntry.byte (e : StreamEntry) : Byte := e.writers.byte ||| (if e.closed then 0x80#8 else 0)

/-- R190: bytes 0 to 35 of the configuration record. -/
def ConfigRecord.body (r : ConfigRecord) : List Byte :=
  be 4 r.version ++ r.streams.map StreamEntry.byte ++ [r.rights.byte, r.policy.byte] ++ be 1 r.holdLimit ++
    be 1 r.freeTarget ++ be 1 r.eraseSlice ++ [0x00#8] ++ be 6 r.sequenceFloor ++ be 2 r.mountFloor ++
    be 2 r.formatCount

/-- R190: the CRC-32 over bytes 0 to 35. -/
def ConfigRecord.check (r : ConfigRecord) : List Byte := be 4 (crc32 r.body).toNat

/-- R190: the whole record, 40 bytes. -/
def ConfigRecord.bytes (r : ConfigRecord) : List Byte := r.body ++ r.check

/-- The policy a byte names (R190). -/
def policyOf (b : Byte) : Option Policy :=
  if b = 0x00#8 then some .hold
  else if b = 0x01#8 then some .refuse
  else if b = 0x02#8 then some .demote
  else none

/-- R138, R190: the record held by 36 bytes, when every field lies within its range. -/
def ConfigRecord.ofBody (bytes : List Byte) : Option ConfigRecord :=
  let byte (i : Nat) : Byte := bytes.getD i 0
  let field (i n : Nat) : Nat := ofBe ((bytes.drop i).take n)
  let streams := (bytes.drop 4).take 16
  match policyOf (byte 21) with
  | none => none
  | some policy =>
    if streams.all (fun b => b &&& 0x78#8 == 0#8) && byte 4 == 0x00#8 &&
        byte 20 &&& 0xF8#8 == 0#8 && byte 20 != 0x00#8 &&
        1 ≤ field 22 1 && 2 ≤ field 23 1 && field 23 1 ≤ 8 && 1 ≤ field 24 1 && field 24 1 ≤ 16 &&
        byte 25 == 0x00#8 && 1 ≤ field 26 6 then
      some
        { version := field 0 4
          streams := streams.map fun b => { writers := PortSet.ofByte b, closed := b.getLsbD 7 }
          rights := PortSet.ofByte (byte 20)
          policy := policy
          holdLimit := field 22 1
          freeTarget := field 23 1
          eraseSlice := field 24 1
          sequenceFloor := field 26 6
          mountFloor := field 32 2
          formatCount := field 34 2 }
    else none

/-- R139: the record of a copy segment, when the copy is valid. -/
def readCopy (m : Memory) (segment : Nat) : Option ConfigRecord :=
  let bytes := m.readBytes (address segment 0) 36
  if (crc32 bytes).toNat = m.number (address segment 36) 4 then ConfigRecord.ofBody bytes else none

/-- The stream table entry of a stream (R138). -/
def ConfigRecord.stream (r : ConfigRecord) (n : Nat) : StreamEntry :=
  r.streams.getD n { writers := { a := false, b := false, c := false }, closed := false }

/-! ### System record payloads (R18 to R20, R190) -/

/-- R18, R190: the payload of the MOUNT record. -/
def mountPayload (f : Findings) : List Byte :=
  be 2 f.mountNumber ++ be 2 f.torn ++ be 1 f.dirty ++ be 1 f.bad ++ be 1 f.service ++
    [f.source.byte, yesNo f.sealedEarly, 0x00#8, 0x00#8, 0x00#8]

/-- R19, R190: the payload of the FORMAT record. -/
def formatPayload (count floor service : Nat) : List Byte :=
  be 2 count ++ be 6 floor ++ be 1 service ++ [0x00#8, 0x00#8, 0x00#8]

/-- R20, R190: the payload of the CONFIG record. -/
def configPayload (version : Nat) (claimant : Option Port) : List Byte :=
  be 4 version ++ [optionalPortByte claimant, 0x00#8, 0x00#8, 0x00#8]

/-! ### What a host reads (R191) -/

/-- R85, R191: the window image of a record: its description, then its payload. -/
def windowImage (id : Nat) (h : Header) (payload : List Byte) : List Byte :=
  be 1 id ++ [h.kind, h.stream, h.origin] ++ be 6 h.sequence ++ be 2 h.mountNumber ++ be 4 h.tick ++
    be 2 h.length ++ be 4 h.payloadCrc ++ be 2 h.headerCrc ++ be 8 0 ++ payload

/-- R191: a completion entry, 12 bytes. -/
def Completion.bytes (c : Completion) : List Byte :=
  [c.kind.byte, c.tag, c.outcome.byte] ++ be 6 c.sequence ++ be 1 c.stream ++ be 2 c.length

/-- R191: a notice's kind and its fields. -/
def Notice.fields : Notice → Byte × List Byte
  | .modeChanged m c => (0x01, [m.byte, c.byte])
  | .cursorOverrun id p => (0x02, be 1 id ++ be 6 p)
  | .cursorDemoted id => (0x03, be 1 id)
  | .cursorClosed id => (0x04, be 1 id)
  | .pressure n => (0x05, be 1 n)
  | .mediaFault s k => (0x06, be 1 s ++ [k.byte])
  | .configChanged v => (0x07, be 4 v)
  | .serviceClaim p claimed => (0x08, [portByte p, yesNo claimed])

/-- R191: a notice with the lost count reported with it, 10 bytes; an absent field reads zero (R189). -/
def Notice.bytes (n : Notice) (lost : Nat) : List Byte :=
  let f := n.fields.2
  [n.fields.1] ++ be 1 lost ++ f ++ List.replicate (8 - f.length) 0x00#8

end Sys2Proof.Machine
end

