-- ==== Sys2Proof/Machine/Classes.lean ====
section
/-! DEFINITION. The class that mount gives a segment by its header (R154), and what an erase that is not carried to its end
leaves in its segment, which the rules give by that class (R101, R119, R136). -/

namespace Sys2Proof.Machine

/-- R154: the class of a segment. -/
inductive SegClass where
  | bad (reason : BadReason)
  | dirty
  | free
  | sealed
  | unsealable
  | candidate
deriving DecidableEq, Repr

/-- R154: the first row of the table that applies. -/
def classify (m : Memory) (i : Nat) : SegClass :=
  if badPresent m i then .bad (readBadReason m i)
  else if retirePresent m i then .dirty
  else if readErased m i ≠ .valid || readOpened m i = .damaged then .dirty
  else
    match readOpened m i, readSealed m i with
    | .valid, .valid => .sealed
    | .valid, .damaged => .unsealable
    | .valid, .absent => .candidate
    | _, .absent => .free
    | _, _ => .dirty

/-! ### Unfinished erases (R101, R116, R119, R136) -/

/-- R154: a class of a segment that no record is read from and that no record is put into. -/
def SegClass.outOfUse : SegClass → Bool
  | .bad _ => true
  | .dirty => true
  | _ => false

/-- R119: what mount finds of a segment whose erase was not carried to its end: of a journal segment a class of `classes`,
of a copy segment an invalid copy. -/
def Memory.foundUnfinished (m : Memory) (segment : Nat) (classes : SegClass → Bool) : Bool :=
  if segment < Config.firstJournal then (readCopy m segment).isNone else classes (classify m segment)

/-- R119, R136: the array with a segment whose erase was not carried to its end. DEDUCED (log 8): the bytes are the array's
own, so long as mount finds of them what the rules say; of other bytes stands what they have in common, a damaged ERASED
group, or a damaged copy. -/
def Memory.leaveUnfinished (m : Memory) (segment : Nat) (classes : SegClass → Bool) : Memory :=
  if m.foundUnfinished segment classes then m else m.eraseSegment segment (.left [(erasedOffset, 0x00#8)])

/-- R119: the array with a segment whose erase a reset stopped: DIRTY at mount, or an invalid copy. -/
def Memory.stopErase (m : Memory) (segment : Nat) : Memory := m.leaveUnfinished segment (· = .dirty)

/-- R116: an erase of a segment carried to its end, with the result the array gives. -/
def Memory.endErase (m : Memory) (segment : Nat) : Erased → Memory
  | .clean => m.eraseSegment segment .clean
  | .left bytes => (m.eraseSegment segment (.left bytes)).leaveUnfinished segment SegClass.outOfUse

end Sys2Proof.Machine
end

