-- ==== Sys2Proof/Machine/Ops.lean ====
section
/-! DEFINITION. The operations that several commands share: ports, notices and completions, the segment map
and its lists, cursors, the mode controller, the append writer's decisions, and the frame every host command
comes in. -/

namespace Sys2Proof.Machine

/-! ### Ports, notices, completions (chapters 10 and 11) -/

/-- The unit of a port. -/
def State.port (s : State) : Port → PortUnit
  | .a => s.portA
  | .b => s.portB
  | .c => s.portC

/-- Replace the unit of a port. -/
def State.setPort (s : State) (p : Port) (u : PortUnit) : State :=
  match p with
  | .a => { s with portA := u }
  | .b => { s with portB := u }
  | .c => { s with portC := u }

/-- Change the unit of a port. -/
def State.modPort (s : State) (p : Port) (f : PortUnit → PortUnit) : State := s.setPort p (f (s.port p))

/-- Change the completion unit of a port. -/
def State.modLists (s : State) (p : Port) (f : CompletionUnit → CompletionUnit) : State :=
  s.modPort p fun u => { u with lists := f u.lists }

/-- R171: a notice joins the tail of a list of fewer than 8, and is discarded and counted lost at 8. -/
def CompletionUnit.addNotice (u : CompletionUnit) (n : Notice) : CompletionUnit :=
  if u.notices.length < Config.noticePlaces then { u with notices := u.notices ++ [n] }
  else { u with lost := min 255 (u.lost + 1) }

/-- R170: a notice handed to one port, if it is ATTACHED. -/
def State.hand (s : State) (p : Port) (n : Notice) : State :=
  if (s.port p).attached then s.modLists p (·.addNotice n) else s

/-- R170: a notice handed to every attached port. -/
def State.handAll (s : State) (n : Notice) : State := ((s.hand .a n).hand .b n).hand .c n

/-- R168: a completion joins the tail in the slot reserved for it. Every posting finds a reservation standing;
without one nothing is posted (log 19). -/
def CompletionUnit.post (u : CompletionUnit) (c : Completion) : CompletionUnit :=
  if 0 < u.reserved then { u with queue := u.queue ++ [c], reserved := u.reserved - 1 } else u

/-- R168: post a completion to a port. -/
def State.post (s : State) (p : Port) (c : Completion) : State := s.modLists p (·.post c)

/-- R167: whether a completion slot can be reserved for the port. -/
def State.slotFree (s : State) (p : Port) : Bool :=
  (s.port p).lists.reserved + (s.port p).lists.queue.length < Config.completionSlots

/-- R167: reserve one completion slot. -/
def State.reserveSlot (s : State) (p : Port) : State := s.modLists p fun u => { u with reserved := u.reserved + 1 }

/-- R166: an entry with no further field. -/
def bareCompletion (kind : RequestKind) (tag : Byte) (outcome : Code) : Completion :=
  { kind := kind, tag := tag, outcome := outcome, sequence := 0, stream := 0, length := 0 }

/-- A staging buffer of a port (R43). -/
def PortUnit.buffer (u : PortUnit) : BufferId → Buffer
  | .zero => u.buffer0
  | .one => u.buffer1

/-- Replace a staging buffer. -/
def PortUnit.setBuffer (u : PortUnit) (i : BufferId) (b : Buffer) : PortUnit :=
  match i with
  | .zero => { u with buffer0 := b }
  | .one => { u with buffer1 := b }

/-- Replace a staging buffer of a port. -/
def State.setBuffer (s : State) (p : Port) (i : BufferId) (b : Buffer) : State := s.modPort p (·.setBuffer i b)

/-! ### Segment map, ring, pool and dirty list (chapter 2) -/

/-- R25: the map entry of a journal segment; segments 0 and 1 have none. -/
def SegmentManager.entry (m : SegmentManager) : Nat → SegEntry
  | 0 => .unknown
  | 1 => .unknown
  | k + 2 => m.map.getD k .unknown

/-- Replace a map entry. -/
def SegmentManager.setEntry (m : SegmentManager) (i : Nat) (e : SegEntry) : SegmentManager :=
  match i with
  | 0 => m
  | 1 => m
  | k + 2 => { m with map := m.map.set k e }

/-- R25: the map entry of a segment. -/
def State.seg (s : State) (i : Nat) : SegEntry := s.segs.entry i

/-- Change the map entry of a segment. -/
def State.modSeg (s : State) (i : Nat) (f : SegEntry → SegEntry) : State :=
  { s with segs := s.segs.setEntry i (f (s.segs.entry i)) }

/-- R27: the program fault count rises, stopping at 2. -/
def SegEntry.fault (e : SegEntry) : SegEntry := { e with faults := min 2 (e.faults + 1) }

/-- R27 for a segment. -/
def State.faultSeg (s : State) (i : Nat) : State := s.modSeg i SegEntry.fault

/-- R24, R25: an entry that becomes ERASING keeps its erase count and its faults. -/
def SegEntry.toErasing (e : SegEntry) : SegEntry :=
  { e with state := .erasing, generation := 0, first := 0, last := 0, fill := none, bad := none }

/-- R17: the oldest boundary B. -/
def State.oldest (s : State) : Nat :=
  match s.segs.ring with
  | [] => s.writer.newestDurable
  | h :: _ => min ((s.seg h).first - 1) s.writer.newestDurable

/-- R29: the OPEN segment, the tail of the ring list, if there is one. -/
def State.openSegment (s : State) : Option Nat :=
  match s.segs.ring.getLast? with
  | none => none
  | some i => if (s.seg i).state = .open then some i else none

/-- R30: whether segment i stands before segment j in the free pool. -/
def SegmentManager.poolBefore (m : SegmentManager) (i j : Nat) : Bool :=
  let ci := (m.entry i).eraseCount.getD 0
  let cj := (m.entry j).eraseCount.getD 0
  ci < cj || (ci == cj && i ≤ j)

/-- R30: a segment joins the pool at the place its count and index give. -/
def SegmentManager.insertPool (m : SegmentManager) (i : Nat) : List Nat → List Nat
  | [] => [i]
  | j :: rest => if m.poolBefore i j then i :: j :: rest else j :: m.insertPool i rest

/-- R33: whether a request to open is allowed. -/
def State.openAllowed (s : State) (mayTakeReserve : Bool) : Bool :=
  if mayTakeReserve then 1 ≤ s.segs.pool.length else Config.reserve < s.segs.pool.length

/-! ### Cursors (chapter 4) -/

/-- R68: the cursor in a slot, if the slot is not empty. -/
def State.cursor (s : State) (id : Nat) : Option Cursor := s.cursors.table.getD id none

/-- Fill or empty a slot. -/
def State.setCursor (s : State) (id : Nat) (c : Option Cursor) : State :=
  { s with cursors := { s.cursors with table := s.cursors.table.set id c } }

/-- Change every cursor. -/
def State.mapCursors (s : State) (f : Cursor → Cursor) : State :=
  { s with cursors := { s.cursors with table := s.cursors.table.map (Option.map f) } }

/-- The slots of the cursor table, in order (R68). -/
def cursorIds : List Nat := List.range 12

/-- R69, R87: both positions of a cursor that lie below a boundary rise to it. -/
def Cursor.raisedTo (c : Cursor) (b : Nat) : Cursor :=
  { c with acked := max c.acked b, delivered := max c.delivered b }

/-- R80: take a cursor's entry out of the fetch list. -/
def State.dropFetch (s : State) (id : Nat) : State :=
  { s with cursors := { s.cursors with fetchList := s.cursors.fetchList.filter (·.id ≠ id) } }

/-- R80, R90: a cursor's entry joins the fetch list, held for a port other than the claimant while the part is under
service (R124). -/
def State.joinFetch (s : State) (id : Nat) (owner : Port) (held : Bool) : State :=
  { s with
    cursors := { s.cursors with fetchList := s.cursors.fetchList ++ [{ id := id, owner := owner, held := held }] } }

/-- R68: the outstanding request of a cursor. -/
def CursorState.request : CursorState → Option Request
  | .idle => none
  | .fetching r => some r
  | .waiting r => some r

/-- R29, R81: every hint naming a segment that leaves the ring is cleared. -/
def State.dropHints (s : State) (segment : Nat) : State :=
  s.mapCursors fun c =>
    match c.hint with
    | none => c
    | some h => if h.segment = segment then { c with hint := none } else c

/-- The lower of two optional positions. -/
def lowerOf : Option Nat → Nat → Option Nat
  | none, n => some n
  | some m, n => some (min m n)

/-- R92: the retention floor, none when the table holds no RETAINING cursor. -/
def State.floor (s : State) : Option Nat :=
  s.cursors.table.foldl
    (fun f slot =>
      match slot with
      | some c => if c.mode = .retaining then lowerOf f c.acked else f
      | none => f)
    none

/-- R93: whether the ring head is eligible for reclaim. -/
def State.eligible (s : State) : Bool :=
  match s.segs.ring with
  | [] => false
  | [_] => false
  | h :: _ :: _ =>
    (s.seg h).state = .sealed &&
      match s.floor with
      | none => true
      | some f => (s.seg h).last ≤ f

/-- R102: whether space is producible. -/
def State.producible (s : State) : Bool :=
  s.reclaim ≠ .idle || !s.segs.dirty.isEmpty || s.eligible

/-- R88, first case, with its notice. -/
def State.demote (s : State) (id : Nat) : State :=
  match s.cursor id with
  | none => s
  | some c => (s.setCursor id (some { c with mode := .lossy })).hand c.owner (.cursorDemoted id)

/-- R107: every RETAINING cursor whose acknowledged position is below the last sequence of the ring head is
demoted. DESIGN CHOICE (log 30): in ascending order of their ids, which decides the order of the CURSOR_DEMOTED notices
that one port receives, and so which of them is lost when its list fills. -/
def State.demoteForSpace (s : State) : State :=
  match s.segs.ring with
  | [] => s
  | h :: _ =>
    let last := (s.seg h).last
    cursorIds.foldl
      (fun s id =>
        match s.cursor id with
        | none => s
        | some c => if c.mode = .retaining && c.acked < last then s.demote id else s)
      s

/-! ### Mode and claim (chapter 7) -/

/-- R128, R130: whether a port is the claimant for a command; in phase ENDING no port is. -/
def State.isClaimant (s : State) (p : Port) : Bool :=
  s.control.claimant = some p && s.control.phase ≠ .ending

/-- R124: whether the part is under service. -/
def State.underService (s : State) : Bool :=
  s.control.mode = .service ||
    (s.control.mode = .frozen && (s.control.phase = .active || s.control.phase = .ending))

/-- R122: a change of mode, with its MODE_CHANGED notice to every attached port. -/
def State.changeMode (s : State) (m : Mode) (cause : ModeCause) : State :=
  { s with control := { s.control with mode := m } }.handAll (.modeChanged m cause)

/-- R90: entries of ports other than the claimant are held. -/
def State.holdFetches (s : State) : State :=
  { s with
    cursors :=
      { s.cursors with
        fetchList := s.cursors.fetchList.map fun e => if s.isClaimant e.owner then e else { e with held := true } } }

/-- R90, R131: every held entry is released. -/
def State.releaseFetches (s : State) : State :=
  { s with
    cursors := { s.cursors with fetchList := s.cursors.fetchList.map fun e => { e with held := false } } }

/-- R126: the completion CLAIM SERVICE, OK is posted to the claimant if the claim request has report yes. -/
def State.postClaim (s : State) : State :=
  match s.control.claimant, s.control.request with
  | some p, some r => if r.report then s.post p (bareCompletion .claimService r.tag .ok) else s
  | _, _ => s

/-- R126, R140: the claim phase is ACTIVE, and the pending configuration is copied from the active one. -/
def State.beginService (s : State) : State :=
  { s with
    control := { s.control with phase := .active, request := none }
    store := { s.store with pendingCfg := some s.store.active } }

/-- R126, R90: the claim phase becomes ACTIVE, and other ports' fetches are held. -/
def State.activateClaim (s : State) : State := ((s.postClaim).beginService).holdFetches

/-- R131, steps 1 and 2: claimant, phase, request, operation and pending configuration are dropped. -/
def State.dropClaim (s : State) : State :=
  { s with
    control := { s.control with claimant := none, phase := .none, request := none, operation := none }
    store := { s.store with pendingCfg := none } }

/-- R131, step 3: the mode of a part without a claim. -/
def State.restMode (s : State) : Mode := if s.control.frozen.media || s.control.frozen.sequence then .frozen else .run

/-- R131, step 3. -/
def State.leaveService (s : State) : State :=
  if s.control.mode = s.restMode then s else s.changeMode s.restMode .released

/-- R131, step 5: the SERVICE_CLAIM notice with the former claimant. -/
def State.announceRelease (s : State) : Option Port → State
  | none => s
  | some p => s.handAll (.serviceClaim p false)

/-- R131: the claim ends. The reclaim unit's examination follows at the end of the command
(`State.settle`). -/
def State.endClaim (s : State) : State :=
  ((s.dropClaim.leaveService).releaseFetches).announceRelease s.control.claimant

/-- R130, R131: a claim in phase ENDING ends when its operation does. -/
def State.endClaimIfEnding (s : State) : State := if s.control.phase = .ending then s.endClaim else s

/-- R121, R147, R135: the completion of the service operation, posted if its report is yes. -/
def State.postOperation (s : State) (kind : RequestKind) (outcome : Code) : State :=
  match s.control.operation, s.control.claimant with
  | some op, some p => if op.report then s.post p (bareCompletion kind op.tag outcome) else s
  | _, _ => s

/-- R135, R145 to R147: no service operation is in flight, and no copy write. -/
def State.dropOperation (s : State) : State :=
  { s with
    control := { s.control with operation := none, format := .none }
    store := { s.store with operation := .none, candidate := none } }

/-- R121, R147, R135: the service operation ends. -/
def State.endOperation (s : State) (kind : RequestKind) (outcome : Code) : State :=
  ((s.postOperation kind outcome).dropOperation).endClaimIfEnding

/-! ### Outcomes of queue entries (R51, R57) -/

/-- R163: the frozen causes at the end of mount. -/
def State.mountCauses (s : State) : FrozenCause :=
  { media := s.control.frozen.media || s.segs.usable < Config.leastUsable
    sequence := s.control.frozen.sequence || s.writer.nextSequence == Config.exhaustedSequence }

/-- R152, R163: the phase is ENDED, and the causes stand in the findings and in the mode controller. -/
def State.endMountPhase (s : State) : State :=
  { s with
    mount := { s.mount with phase := .ended, findings := { s.mount.findings with causes := s.mountCauses } }
    control := { s.control with frozen := s.mountCauses } }

/-- R163: mount is complete. -/
def State.completeMount (s : State) : State :=
  if s.mountCauses.media then s.endMountPhase.changeMode .frozen .media
  else if s.mountCauses.sequence then s.endMountPhase.changeMode .frozen .sequence
  else s.endMountPhase.changeMode .run .mounted

/-- R152: the finding "sequence number of the MOUNT record". -/
def State.findMountRecord (s : State) (sequence : Nat) : State :=
  { s with mount := { s.mount with findings := { s.mount.findings with recordSequence := sequence } } }

/-- R57: the producer of a system entry is told the outcome: the sequence number when it was written. -/
def State.tellProducer (s : State) (kind : RecordKind) (written : Option Nat) : State :=
  match kind with
  | .data => s
  | .mount => (s.findMountRecord (written.getD 0)).completeMount
  | .config => s.endOperation .commitConfig .ok
  | .format =>
    s.endOperation .format
      (if written.isSome && Config.leastUsable ≤ s.segs.usable then .ok else .mediaFault)

/-- R51, R67: an entry's outcome: a DATA entry's buffer goes to EMPTY and its completion is posted if its report
is yes; a system entry's producer is told. -/
def State.finishEntry (s : State) (e : Entry) (outcome : Code) (written : Option Nat) : State :=
  match e.source with
  | .part _ => s.tellProducer e.kind written
  | .host p b tag report =>
    if report then
      (s.setBuffer p b .cleared).post p { bareCompletion .commit tag outcome with sequence := written.getD 0 }
    else s.setBuffer p b .cleared

/-- R51: the head is taken out of the queue. -/
def State.dequeue (s : State) : State := { s with writer := { s.writer with queue := s.writer.queue.tail } }

/-- R51: the head leaves the queue with its outcome. -/
def State.leaveHead (s : State) (e : Entry) (outcome : Code) (written : Option Nat) : State :=
  s.dequeue.finishEntry e outcome written

/-! ### The append writer's decisions (R52, R102 to R108) -/

/-- R36: a record fits in the OPEN segment. -/
def State.fits (s : State) (e : Entry) : Bool :=
  match s.openSegment with
  | none => false
  | some i => (s.seg i).fill.getD 0 + extent e.length ≤ Config.dataLines

/-- R52: the head can be written now. -/
def State.canProceed (s : State) (e : Entry) : Bool :=
  s.fits e || s.openAllowed (e.kind = .mount)

/-- R54: sequence numbers are exhausted. -/
def State.exhausted (s : State) : Bool := s.writer.nextSequence = Config.exhaustedSequence

/-- R52, R102: the writer's state, with the pressure state and the hold timer that go with it. -/
def State.setWriter (s : State) (w : WriterState) (pressure : Pressure) (timer : Option Nat) : State :=
  { s with writer := { s.writer with state := w, pressure := pressure, holdTimer := timer } }

/-- R126, R127: the mode controller is told that the writer is IDLE, which ends a drain. -/
def State.drainEnds (s : State) : State :=
  if s.control.phase = .draining then
    match s.control.mode with
    | .draining => (s.changeMode .service .drained).activateClaim
    | .frozen => (s.changeMode .service .claimed).activateClaim
    | _ => s
  else s

/-- R52, R126, R127: the writer goes to IDLE and tells the mode controller. -/
def State.writerIdle (s : State) : State := (s.setWriter .idle .none none).drainEnds

/-- R102, R104: the head waits, blocked; at the start of an episode a PRESSURE notice is handed. -/
def State.becomeBlocked (s : State) : State :=
  if s.writer.pressure = .blocked then s.setWriter .waiting .blocked s.writer.holdTimer
  else (s.setWriter .waiting .blocked s.writer.holdTimer).handAll (.pressure s.segs.pool.length)

/-- R105: stop or start the hold timer. -/
def State.setHoldTimer (s : State) (timer : Option Nat) : State :=
  { s with writer := { s.writer with holdTimer := timer } }

/-- R105: the milliseconds of the hold timer, from the active configuration. -/
def State.holdLimit (s : State) : Nat := 100 * s.store.active.holdLimit

/-- R107: the demotions for a blocked head; then it waits for the space they give. -/
def State.demoteAndWait (s : State) : State :=
  let s := s.demoteForSpace
  s.setWriter .waiting (if s.producible then .waiting else .blocked) none

/-- R105: under HOLD a blocked DATA head waits. Its timer starts from the full limit when the head is new or the timer
stands still. -/
def State.holdHead (s : State) (fresh : Bool) : State :=
  if fresh || s.writer.holdTimer.isNone then s.setHoldTimer (some s.holdLimit) else s

/-- R52, R102 to R108: examine the head. `fresh` says that this head was not at the head before, so that the hold
timer starts for it from the full limit. `fuel` bounds the heads that leave in a row; one more than the queue's
length is enough. -/
def State.examine : Nat → Bool → State → State
  | 0, _, s => s
  | fuel + 1, fresh, s =>
    match s.writer.queue with
    | [] => s.writerIdle
    | e :: _ =>
      if s.exhausted then State.examine fuel true (s.leaveHead e .wrongMode none)
      else if s.canProceed e then s.setWriter .requesting .none none
      else if s.producible then s.setWriter .waiting .waiting none
      else
        match s.store.active.policy, e.kind with
        | .hold, .data => s.becomeBlocked.holdHead fresh
        | .refuse, .data => State.examine fuel true ((s.becomeBlocked.setHoldTimer none).leaveHead e .full none)
        | .demote, _ => s.becomeBlocked.demoteAndWait
        | _, _ => s.becomeBlocked.setHoldTimer none

/-- R52: examine a head that has just come to the head. -/
def State.examineHead (s : State) : State := s.examine (s.writer.queue.length + 1) true

/-- R103, first row again for a head that waits: the free count has risen. -/
def State.freeCountRose (s : State) : State :=
  if s.writer.state = .waiting then s.examine (s.writer.queue.length + 1) false else s

/-- R102, R103: space is producible, and a head that waits, waits for it. -/
def State.awaitSpace (s : State) : State :=
  if s.writer.state = .waiting then s.setWriter .waiting .waiting none else s

/-- R103: a new floor, or the reclaim unit back in IDLE: blocked becomes waiting when space is producible, and
waiting becomes blocked when it no longer is. -/
def State.redecidePressure (s : State) : State :=
  if s.writer.state = .waiting then
    if s.producible then s.awaitSpace
    else if s.writer.pressure = .blocked then s
    else s.examine (s.writer.queue.length + 1) false
  else s

/-- R50: an entry at the tail of the queue. -/
def State.enqueue (s : State) (e : Entry) : State := { s with writer := { s.writer with queue := s.writer.queue ++ [e] } }

/-- R48, R50: an entry joins the tail; the head of an empty queue is examined. -/
def State.joinQueue (s : State) (e : Entry) : State :=
  if s.writer.queue.isEmpty then (s.enqueue e).examineHead else s.enqueue e

/-- R65: the entries that a flush takes: all but one that is being written. -/
def Writer.flushed (w : Writer) : List Entry := if w.state = .writing then w.queue.tail else w.queue

/-- R65, R52, R112: the flushed entries are out of the queue, and the writer is IDLE unless it is WRITING; a pending append
request is withdrawn, which sets the consecutive fetch count to 0. -/
def State.emptyQueue (s : State) : State :=
  { s with
    writer :=
      { s.writer with
        queue := if s.writer.state = .writing then s.writer.queue.take 1 else []
        state := if s.writer.state = .writing then .writing else .idle
        pressure := .none
        holdTimer := none }
    seq := { s.seq with fetchCount := if s.writer.state = .requesting then 0 else s.seq.fetchCount } }

/-- R65: the queue is flushed, but for an entry in WRITING. -/
def State.flushQueue (s : State) : State :=
  s.writer.flushed.foldl (fun s e => s.finishEntry e .wrongMode none) s.emptyQueue

/-- R121, R123: a cause joins the set. -/
def State.addCause (s : State) (cause : ModeCause) : State :=
  { s with
    control :=
      { s.control with
        frozen :=
          { media := s.control.frozen.media || cause = .media
            sequence := s.control.frozen.sequence || cause = .sequence } } }

/-- R126: a claim in phase DRAINING passes to ACTIVE, at once unless a write-out is in progress. -/
def State.activateIfDraining (s : State) : State :=
  if s.control.phase = .draining && s.writer.state ≠ .writing then s.activateClaim else s

/-- R123: a frozen cause arises. From RUN, DRAINING and SERVICE the part enters FROZEN and the queue is
flushed; a claim in phase DRAINING passes to ACTIVE (R126). In FROZEN and MOUNTING the cause joins the set. -/
def State.enterFrozen (s : State) (cause : ModeCause) : State :=
  match s.control.mode with
  | .mounting => s.addCause cause
  | .frozen => s.addCause cause
  | _ => (((s.addCause cause).changeMode .frozen cause).flushQueue).activateIfDraining

/-! ### Requests for the array (chapters 5 and 6) -/

/-- R95, condition 1: RUN or DRAINING, or a CONFIG entry at the head waits for a segment. -/
def State.reclaimModeAllows (s : State) : Bool :=
  s.control.mode = .run || s.control.mode = .draining ||
    match s.writer.queue with
    | [] => false
    | e :: _ => e.kind = .config && s.writer.state = .waiting

/-- R132: whether a FORMAT is in flight. -/
def State.formatInFlight (s : State) : Bool :=
  match s.control.operation with
  | none => false
  | some op => op.kind = .format

/-- R95, conditions 1 to 4. -/
def State.retireAllowed (s : State) : Bool :=
  s.reclaimModeAllows && !s.formatInFlight && s.segs.pool.length < s.store.active.freeTarget &&
    s.seq.erases.isEmpty

/-- R95: the IDLE reclaim unit goes to SELECTING while its five conditions hold. -/
def State.examineReclaim (s : State) : State :=
  if s.reclaim = .idle && s.retireAllowed && (!s.segs.dirty.isEmpty || s.eligible) then
    { s with reclaim := .selecting }
  else s

/-- R80, R111: a port's fetch has a request pending. -/
def State.fetchPending (s : State) (p : Port) : Bool :=
  s.cursors.fetchList.any fun e => e.owner = p && !e.held

/-- R52, R111: the append writer has a request pending. -/
def State.appendPending (s : State) : Bool := s.writer.state = .requesting

/-- R94, R111: the reclaim unit has a retire request pending. -/
def State.retirePending (s : State) : Bool := s.reclaim = .selecting

/-- R110: a configuration program request is pending: the store's for a candidate, or the mode controller's for
a program FORMAT makes outside its erases. -/
def State.configPending (s : State) : Bool :=
  (match s.store.operation with
    | .copyWrite _ .program => true
    | _ => false) ||
  (match s.control.format with
    | .seal => true
    | .retireRing => true
    | .retireSegment _ _ => true
    | _ => false)

/-- R112: a request of another class than erase is pending. -/
def State.requestPending (s : State) : Bool :=
  s.retirePending || s.appendPending || s.fetchPending .a || s.fetchPending .b || s.fetchPending .c ||
    s.configPending

/-- R114, R115: the head erase is ACTIVE. -/
def State.eraseActive (s : State) : Bool := !s.seq.erases.isEmpty && s.seq.head = .active

/-- R112, order 2; R115: an ACTIVE head erase whose slice has elapsed is suspended when a request is pending. -/
def State.suspendIfMet (s : State) : State :=
  if s.eraseActive && s.seq.slice = .elapsed && s.requestPending then
    { s with seq := { s.seq with head := .suspended, slice := .stopped } }
  else s

/-- R76, R92, R103: the reclaim unit is told of a change of the cursor table (log 23). -/
def State.floorChanged (s : State) : State := s.redecidePressure

/-- R113: an erase request joins the tail of the erase list; a new head is PENDING. -/
def State.requestErase (s : State) (e : Erase) : State :=
  { s with
    seq :=
      { s.seq with
        erases := s.seq.erases ++ [e]
        head := if s.seq.erases.isEmpty then .pending else s.seq.head } }

end Sys2Proof.Machine
end

