-- ==== Sys2Proof/Machine/Flags.lean ====
section
/-! DEFINITION. What a port shows without being asked: the status byte (R178), the ATTN line (R173), and the
frame of a response on the link (R177). -/

namespace Sys2Proof.Machine

/-- One position of a byte. -/
def bitAt (n : Nat) (b : Bool) : Byte := if b then 1#8 <<< n else 0

/-- R178: "claim or lease": on an ATTACHED port, whether it is the claimant with phase DRAINING or ACTIVE; on a
DETACHED one, the detached-by-lease flag. -/
def State.claimOrLease (s : State) (p : Port) : Bool :=
  if (s.port p).attached then
    s.control.claimant = some p && (s.control.phase = .draining || s.control.phase = .active)
  else (s.port p).detachedByLease

/-- R178, R191: the status byte of a port. -/
def State.statusByte (s : State) (p : Port) : Byte :=
  let u := s.port p
  bitAt 0 u.attached ||| bitAt 1 (!u.lists.queue.isEmpty) ||| bitAt 2 (!u.lists.notices.isEmpty) |||
    (s.control.mode.byte <<< 3) ||| bitAt 6 (s.claimOrLease p) ||| bitAt 7 u.lastRejected

/-- R173, R151: whether a port's ATTN line is asserted. -/
def State.attn (s : State) (p : Port) : Bool :=
  let u := s.port p
  !s.inReset &&
    ((!u.lists.queue.isEmpty && u.maskCompletions) || (!u.lists.notices.isEmpty && u.maskNotices))

/-- R177, R191: a response as it is shifted out: code, result count, result bytes, check byte. -/
def Response.frame (r : Response) : List Byte :=
  let body := [r.code.byte] ++ be 1 r.result.length ++ r.result
  body ++ [crc8 body]

/-- R177, R178: what a port shifted out in its last frame: the status byte during the command code, then the response, if
one was given. The filler between them is left out (log 27). -/
def PortUnit.shiftedOut (u : PortUnit) : List Byte := u.statusOut :: (u.response.map Response.frame).getD []

/-- R193, R151: what a port's data output carries: nothing (high impedance) in reset or while select is released; else
what is shifted out. -/
def State.dataOut (s : State) (p : Port) : Option (List Byte) :=
  if s.inReset || (s.port p).link = .idle then none else some (s.port p).shiftedOut

/-! ### Taking a frame (R177 to R179) -/

/-- R177, R178, R179: a frame is taken: the status byte has been shifted out as it stood when select was
asserted, the last-frame-rejected indication is cleared, the link goes to RESPONSE, and the lease timer of an
attached port with a lease restarts. -/
def State.takeFrame (s : State) (p : Port) : State :=
  s.modPort p fun u =>
    { u with
      statusOut := s.statusByte p
      link := .response
      lastRejected := false
      leaseTimer := if u.attached && u.lease ≠ 0 then some (100 * u.lease.toNat) else u.leaseTimer }

/-- R177, R193: the response is shifted out and select is released, which brings the link back to IDLE and the data output
to high impedance. DEDUCED (log 14): a command is the whole frame, from the assertion of select to its release. -/
def State.answer (s : State) (p : Port) (code : Code) (result : List Byte) : State :=
  s.modPort p fun u => { u with link := .idle, response := some { code := code, result := result } }

/-- What a command comes to: the state after its effect, its acceptance code and its result bytes. -/
structure Reply where
  state : State
  code : Code
  result : List Byte

/-- A refusal that changes nothing (R179). -/
def Reply.refuse (s : State) (code : Code) : Reply := { state := s, code := code, result := [] }

/-- The code of the first condition that holds. -/
def firstHolding : List (Bool × Code) → Option Code
  | [] => none
  | (holds, code) :: rest => if holds then some code else firstHolding rest

/-- R124: the rows of the mode table. -/
inductive CommandClass where
  /-- ATTACH, DETACH, READ STATUS, TAKE COMPLETION, TAKE NOTICE -/
  | always
  /-- commands the table does not name -/
  | other
  /-- BEGIN RECORD and COMMIT, which meet the refusal in their own tables -/
  | append
  /-- LOAD and ABANDON -/
  | staging
  /-- cursor commands, READ NEXT, READ WINDOW (R70) -/
  | cursor
  | claimService
  | releaseService
  /-- EDIT STREAM, EDIT RIGHTS, EDIT POLICY, COMMIT CONFIG, FORMAT -/
  | service
deriving DecidableEq, Repr

/-- R124: the mode gate, none when the command is taken or passes on to its own rule. -/
def State.modeGate (s : State) (p : Port) : CommandClass → Option Code
  | .always => none
  | .other => if s.control.mode = .mounting then some .wrongMode else none
  | .append => none
  | .staging => if s.control.mode = .mounting then some .wrongMode else none
  | .cursor =>
    firstHolding
      [(s.control.mode = .mounting, .wrongMode), (s.underService && !s.isClaimant p, .wrongMode)]
  | .claimService =>
    firstHolding
      [(s.control.mode = .mounting, .wrongMode),
        (s.control.mode = .draining || s.control.mode = .service, .busy),
        (s.control.mode = .frozen && s.control.claimant.isSome, .busy)]
  | .releaseService =>
    firstHolding
      [(s.control.mode = .mounting || s.control.mode = .run, .wrongMode),
        (s.control.mode = .frozen && s.control.claimant.isNone, .wrongMode)]
  | .service =>
    firstHolding
      [(s.control.mode = .mounting || s.control.mode = .run, .wrongMode),
        (s.control.mode = .frozen && s.control.claimant.isNone, .wrongMode)]

/-- R179: whether a DETACHED port may send the command: ATTACH and READ STATUS. -/
inductive Attachment where
  | needed | notNeeded
deriving DecidableEq, Repr

/-- R151, R177, R179: a host command in its frame. Held in reset, a port takes no frame. Otherwise the frame is
taken, and the command is refused NOT_ATTACHED, then by the mode gate, then handled by its own rule (log 25). -/
def hostFrame (p : Port) (need : Attachment) (cls : CommandClass) (body : State → Reply) (s : State) : State :=
  if s.inReset then s
  else
    let s := s.takeFrame p
    if need = .needed && !(s.port p).attached then s.answer p .notAttached []
    else
      match s.modeGate p cls with
      | some code => s.answer p code []
      | none =>
        let r := body s
        r.state.answer p r.code r.result

end Sys2Proof.Machine
end

