-- ==== Sys2Proof/Machine/Operands.lean ====
section
/-! DEFINITION. The operand fields of host commands, read by the encodings of R189, R191 and R192; none where
the value lies outside its encoding. -/

namespace Sys2Proof.Machine

/-- R44: a buffer operand is 0 or 1. -/
def bufferOf (b : Byte) : Option BufferId :=
  if b = 0x00#8 then some .zero else if b = 0x01#8 then some .one else none

/-- R192: RETAINING 00h, LOSSY 01h. -/
def cursorModeOf (b : Byte) : Option CursorMode :=
  if b = 0x00#8 then some .retaining else if b = 0x01#8 then some .lossy else none

/-- R71: where a new cursor starts. -/
inductive Start where
  | oldest | newest
deriving DecidableEq, Repr

/-- R192: OLDEST 00h, NEWEST 01h. -/
def startOf (b : Byte) : Option Start :=
  if b = 0x00#8 then some .oldest else if b = 0x01#8 then some .newest else none

/-- R169, R172: NEXT or AGAIN. -/
inductive Which where
  | next | again
deriving DecidableEq, Repr

/-- R192: NEXT 00h, AGAIN 01h. -/
def whichOf (b : Byte) : Option Which :=
  if b = 0x00#8 then some .next else if b = 0x01#8 then some .again else none

/-- R141: ACTIVE or PENDING. -/
inductive WhichConfig where
  | active | pendingCfg
deriving DecidableEq, Repr

/-- R192: ACTIVE 00h, PENDING 01h. -/
def whichConfigOf (b : Byte) : Option WhichConfig :=
  if b = 0x00#8 then some .active else if b = 0x01#8 then some .pendingCfg else none

/-- R192: the attention mask, completions at position 0, notices at position 1; nothing else (R180). -/
def maskOf (b : Byte) : Option (Bool × Bool) :=
  if b &&& 0xFC#8 = 0#8 then some (b.getLsbD 0, b.getLsbD 1) else none

/-- R189: a set of ports in one byte, no other position set. -/
def portSetOf (b : Byte) : Option PortSet :=
  if b &&& 0xF8#8 = 0#8 then some (PortSet.ofByte b) else none

/-- R191: closed, yes 01h or no 00h. -/
def closedOf (b : Byte) : Option Bool :=
  if b = 0x00#8 then some false else if b = 0x01#8 then some true else none

end Sys2Proof.Machine
end

