-- ==== Sys2Proof/Machine/Lists.lean ====
section
/-! DEFINITION. The list commands (chapter 10): TAKE COMPLETION and TAKE NOTICE. -/

namespace Sys2Proof.Machine

/-- R169, R191: an answer of TAKE COMPLETION; EMPTY carries no result bytes. -/
def completionAnswer : Option Completion → Code × List Byte
  | none => (.empty, [])
  | some c => (.ok, c.bytes)

/-- R169: NEXT removes the oldest entry and remembers its answer. -/
def CompletionUnit.takeCompletion (u : CompletionUnit) : CompletionUnit :=
  { u with lastCompletion := u.queue.head?, queue := u.queue.tail }

/-- R169. -/
def takeCompletion (p : Port) (which : Byte) (s : State) : Reply :=
  match whichOf which with
  | none => .refuse s .badValue
  | some w =>
    let s :=
      match w with
      | .next => s.modLists p CompletionUnit.takeCompletion
      | .again => s
    let a := completionAnswer (s.port p).lists.lastCompletion
    { state := s, code := a.1, result := a.2 }

/-- R169: TAKE COMPLETION. -/
def execTakeCompletion (p : Port) (which : Byte) (s : State) : Host.Outcome State Fault Refusal :=
  .next (hostFrame p .needed .always (takeCompletion p which) s)

/-- R172, R191: an answer of TAKE NOTICE; EMPTY carries one byte, the lost count 0. -/
def noticeAnswer : Option (Notice × Nat) → Code × List Byte
  | none => (.empty, [0x00#8])
  | some (n, lost) => (.ok, n.bytes lost)

/-- R172: NEXT removes the oldest notice and remembers it with the lost count; the count becomes 0 with the take that
empties the list. -/
def CompletionUnit.takeNotice (u : CompletionUnit) : CompletionUnit :=
  { u with
    lastNotice := u.notices.head?.map fun n => (n, u.lost)
    notices := u.notices.tail
    lost := if u.notices.length = 1 then 0 else u.lost }

/-- R172. -/
def takeNotice (p : Port) (which : Byte) (s : State) : Reply :=
  match whichOf which with
  | none => .refuse s .badValue
  | some w =>
    let s :=
      match w with
      | .next => s.modLists p CompletionUnit.takeNotice
      | .again => s
    let a := noticeAnswer (s.port p).lists.lastNotice
    { state := s, code := a.1, result := a.2 }

/-- R172: TAKE NOTICE. -/
def execTakeNotice (p : Port) (which : Byte) (s : State) : Host.Outcome State Fault Refusal :=
  .next (hostFrame p .needed .always (takeNotice p which) s)

end Sys2Proof.Machine
end

