-- ==== Sys2Proof/Machine/Segments.lean ====
section
/-! DEFINITION. The segment manager's programs (chapter 2): opening, sealing, retiring and taking a segment out
of service, made within the grant of the block that asks for them. -/

namespace Sys2Proof.Machine

/-- An operation that holds the array: the state, and the array's answers to the programs still to come. When
`cutting`, a reset stops the operation where the answers end, and nothing is programmed after them (R119); else
every program beyond the answers is done. -/
structure Work where
  s : State
  media : List Programmed
  cutting : Bool

/-- Change the state of an operation. -/
def Work.mod (w : Work) (f : State → State) : Work := { w with s := f w.s }

/-- R119: what a program cut short leaves: the bytes the event gives, of which no bit is programmed that the program was
not to program. -/
def cutShort (data : List Byte) : Programmed → Programmed
  | .done => .done
  | .left bytes => .left ((List.range data.length).map fun i => bytes.getD i erasedByte ||| data.getD i 0)

/-- R61, R119: the next program is the last that the stopped operation began. -/
def Work.cutsHere (w : Work) : Bool := w.cutting && w.media.length ≤ 1

/-- R117: one program with its verify, and the result handed to the requester. -/
def Work.program (w : Work) (a : Nat) (data : List Byte) : Work × Bool :=
  match w.media with
  | [] =>
    if w.cutting then (w, false)
    else
      let r := w.s.array.program a data .done
      ({ w with s := { w.s with array := r.1 } }, r.2)
  | answer :: media =>
    let r := w.s.array.program a data (if w.cutsHere then cutShort data answer else answer)
    ({ w with s := { w.s with array := r.1 }, media := media }, r.2)

/-- One program of which the rules say what is found of it when it is not whole. DEDUCED (log 8): the bytes are the array's
own so long as `found` holds of them; of other bytes nothing is programmed. -/
def Work.programHeld (w : Work) (a : Nat) (data : List Byte) (found : Memory → Bool) : Work × Bool :=
  match w.program a data with
  | (after, true) => (after, true)
  | (after, false) =>
    if found after.s.array then (after, false)
    else (after.mod fun s => { s with array := w.s.array }, false)

/-- R27, R35, R97: the RETIRE program of a segment; a failed verify counts as a program fault. -/
def Work.programRetire (w : Work) (i : Nat) : Work :=
  match w.program (address i retireOffset) retireWord with
  | (w, true) => w
  | (w, false) => w.mod (·.faultSeg i)

/-- R36: the SEALED program of a segment. R37, R61: of one that failed or was cut short no valid group is read, so that it
does not seal the segment. -/
def Work.programSealed (w : Work) (i last : Nat) : Work × Bool :=
  w.programHeld (address i sealedOffset) (sealedGroup last) fun m => readSealed m i ≠ .valid

/-- R36, R37: the SEALED program of a segment, which is SEALED in the map whether or not it verifies. -/
def Work.seal (w : Work) (i last : Nat) : Work :=
  match w.programSealed i last with
  | (w, true) => w.mod fun s => s.modSeg i fun e => { e with state := .sealed, last := last }
  | (w, false) =>
    w.mod fun s =>
      (s.modSeg i fun e => { e with state := .sealed, last := last }.fault).handAll (.mediaFault i .seal)

/-- R32: the generation counter after an open attempt. Past 2^32 - 1 the rule states no value (log 20). -/
def nextGeneration (g : Nat) : Nat :=
  if g < Config.lastGeneration then g + 1 else Config.generationPastEnd.toNat

/-- R34: the first segment of the pool leaves it and takes the next generation. -/
def State.takeFromPool (s : State) : State :=
  { s with segs := { s.segs with pool := s.segs.pool.tail, generation := nextGeneration s.segs.generation } }

/-- R34: the entry of a segment whose OPENED program verified, at the tail of the ring list. -/
def State.placeOpen (s : State) (i generation first : Nat) : State :=
  let s := s.modSeg i fun e =>
    { e with state := .open, generation := generation, first := first, last := first - 1, fill := some 0 }
  { s with segs := { s.segs with ring := s.segs.ring ++ [i] } }

/-- R35: a segment whose OPENED program failed joins the tail of the dirty list. -/
def State.placeDirty (s : State) (i : Nat) : State :=
  let s := s.modSeg i fun e => { e with state := .dirty }.fault
  { s with segs := { s.segs with dirty := s.segs.dirty ++ [i] } }

/-- R136, last row: the operation is a write-out of the FORMAT record that a reset stops. -/
def Work.stopsFormatRecord (w : Work) : Bool :=
  w.cutting &&
    match w.s.writer.queue with
    | [] => false
    | e :: _ => e.kind = .format

/-- R34: the OPENED program of a segment. R61: of one cut short no valid group is read unless it is whole. R136, last row: a
stopped write-out of the FORMAT record has come no further than an OPENED program that is not whole, so that the next mount
finds an empty ring (log 35). -/
def Work.programOpened (w : Work) (i generation first mount : Nat) : Work × Bool :=
  let stops := w.stopsFormatRecord
  match
    w.programHeld (address i openedOffset) (openedGroup generation first mount) fun m =>
      !(w.cutsHere || stops) || readOpened m i ≠ .valid with
  | (after, true) => if stops then ({ w with media := [] }, false) else (after, true)
  | (after, false) => (after, false)

/-- R34, R35: one open attempt, on the first segment of the pool; the segment when it succeeded. -/
def Work.openOnce (w : Work) (first : Nat) : Work × Option Nat :=
  match w.s.segs.pool with
  | [] => (w, none)
  | i :: _ =>
    let generation := w.s.segs.generation
    match (w.mod State.takeFromPool).programOpened i generation first w.s.mount.number with
    | (w, true) => (w.mod (·.placeOpen i generation first), some i)
    | (w, false) =>
      (((w.mod (·.placeDirty i)).programRetire i).mod (·.handAll (.mediaFault i .open)), none)

/-- R33, R35, R53: an open with the one further attempt after a failed OPENED program, which may take the
reserve. -/
def Work.openSegment (w : Work) (first : Nat) : Work × Option Nat :=
  match w.openOnce first with
  | (w, some i) => (w, some i)
  | (w, none) => if w.s.openAllowed true then w.openOnce first else (w, none)

/-- R53, step 2; R36: the OPEN segment, if there is one, is sealed with the last sequence of its entry. -/
def Work.sealOpen (w : Work) : Work :=
  match w.s.openSegment with
  | none => w
  | some i => w.seal i (w.s.seg i).last

/-! ### Return from erase (R28, R38 to R41) -/

/-- R28: the highest known erase count in the map, 0 when none is known. -/
def State.highestEraseCount (s : State) : Nat :=
  s.segs.map.foldl (fun n e => max n (e.eraseCount.getD 0)) 0

/-- R28: the count written into the new ERASED group. Past 16,777,215 the rule states no value (log 20). -/
def State.newEraseCount (s : State) (i : Nat) : Nat :=
  let before := (s.seg i).eraseCount.getD s.highestEraseCount
  if before < Config.lastEraseCount then before + 1 else Config.eraseCountPastEnd.toNat

/-- R39: a segment becomes BAD: it belongs to no collection and keeps its erase count. -/
def State.placeBad (s : State) (i : Nat) (reason : BadReason) : State :=
  s.modSeg i fun e => { e with state := .bad, bad := some reason }

/-- R39, R30: a segment becomes FREE and joins the pool. -/
def State.placeFree (s : State) (i : Nat) : State :=
  let s := s.modSeg i fun e => { e with state := .free, faults := 0, bad := none }
  { s with segs := { s.segs with pool := s.segs.insertPool i s.segs.pool } }

/-- R41: the usable count falls when a segment that was counted becomes BAD. A BAD segment that FORMAT erased and
that returns to BAD was not counted (log 17). -/
def State.countBad (s : State) (wasBad : Option BadReason) : State :=
  match wasBad with
  | some _ => s
  | none => { s with segs := { s.segs with usable := s.segs.usable - 1 } }

/-- R41: the usable count rises when a FORMAT attempt returns a BAD segment to FREE. -/
def State.countFree (s : State) (wasBad : Option BadReason) : State :=
  match wasBad with
  | none => s
  | some _ => { s with segs := { s.segs with usable := s.segs.usable + 1 } }

/-- R39, R40: a segment goes to BAD, with its notice; the BAD mark is programmed when `mark`. A failed BAD program
leaves the segment BAD in the map. DEDUCED (log 18): a segment that was BAD before hands its notice again. -/
def Work.outOfService (w : Work) (i : Nat) (reason : BadReason) (mark : Bool) (wasBad : Option BadReason) : Work :=
  let w := if mark then (w.program (address i badOffset) (badGroup reason)).1 else w
  w.mod fun s => ((s.placeBad i reason).countBad wasBad).handAll (.mediaFault i reason.faultKind)

/-- R39, R40: the state an erased segment takes, by the first row that applies. `succeeded` says that the erase
verified and the ERASED group was programmed with the count its entry now holds. -/
def Work.setOutcome (w : Work) (i : Nat) (succeeded : Bool) (wasBad : Option BadReason) : Work :=
  if succeeded then
    if Config.enduranceLimit ≤ (w.s.seg i).eraseCount.getD 0 then w.outOfService i .worn true wasBad
    else if wasBad.isNone && (w.s.seg i).faults = 2 then w.outOfService i .programFail true wasBad
    else w.mod fun s => (s.placeFree i).countFree wasBad
  else
    match wasBad with
    | none => w.outOfService i .eraseFail true wasBad
    | some reason => w.outOfService i reason (!badPresent w.s.array i) wasBad

end Sys2Proof.Machine
end

