-- ==== Sys2Proof/Machine/Overtake.lean ====
section
/-! DEFINITION. What a retire grant examines and chooses (R96), the segment's leaving of the ring or of the dirty list
(R97, R98), and the overtake of the cursors (R87). -/

namespace Sys2Proof.Machine

/-! ### Overtake (R87) -/

/-- R87: a LOSSY cursor is overtaken to `place`; a position of a RETAINING cursor below B rises to B. -/
def Cursor.overtaken (c : Cursor) (place b : Nat) : Cursor :=
  match c.mode with
  | .lossy =>
    if c.delivered < place then
      { c with acked := max c.acked place, delivered := place, hint := none, overrun := min 255 (c.overrun + 1) }
    else { c with acked := max c.acked place }
  | .retaining => c.raisedTo b

/-- R87: whether a cursor is overrun, for which its owner is handed a notice. -/
def Cursor.overrunBy (c : Cursor) (place : Nat) : Bool := c.mode = .lossy && c.delivered < place

/-- R87: one cursor at an overtake. -/
def State.overtakeCursor (place b : Nat) (s : State) (id : Nat) : State :=
  match s.cursor id with
  | none => s
  | some c =>
    let s' := s.setCursor id (some (c.overtaken place b))
    if c.overrunBy place then s'.hand c.owner (.cursorOverrun id place) else s'

/-- R87: the overtake at which the retired segment's L is `last`. DESIGN CHOICE (log 30): the cursors are taken in
ascending order of their ids, which decides the order of the CURSOR_OVERRUN notices that one port receives, and so which
of them is lost when its list fills. -/
def State.overtake (s : State) (last : Nat) : State :=
  cursorIds.foldl (State.overtakeCursor (max last s.oldest) s.oldest) s

/-! ### The choice and what it takes out -/

/-- R29, R97, R134: the ring head leaves the ring list and becomes ERASING, and hints into it are dropped. -/
def State.leaveRing (s : State) (i : Nat) : State :=
  ({ s with segs := { s.segs with ring := s.segs.ring.tail } }.modSeg i SegEntry.toErasing).dropHints i

/-- R98: the head of the dirty list leaves it and becomes ERASING. -/
def State.leaveDirty (s : State) (i : Nat) : State :=
  { s with segs := { s.segs with dirty := s.segs.dirty.tail } }.modSeg i SegEntry.toErasing

/-- R97, step 3: L, the retired segment's last sequence, or the newest durable sequence number if that is lower. -/
def State.retiredLast (s : State) (i : Nat) : Nat := min (s.seg i).last s.writer.newestDurable

/-- R96: the choice of a retire grant, by the first line of the table that applies: none while one of the conditions 1 to 4
of R95 does not hold, else the head of the dirty list, else the ring head while it is eligible, else none. -/
def State.chooseTarget (s : State) : Option Target :=
  if s.retireAllowed then
    match s.segs.dirty, s.segs.ring with
    | i :: _, _ => some { segment := i, source := .dirty }
    | [], i :: _ => if s.eligible then some { segment := i, source := .ring } else none
    | [], [] => none
  else none

/-- R94, R97 (steps 2 and 3), R98: the chosen segment leaves its collection and is ERASING, and a ring segment's leaving
overtakes the cursors. The reclaim unit has chosen, so that space is producible whatever the new floor (R76, R87,
R102). -/
def State.takeTarget (s : State) (t : Target) : State :=
  match t.source with
  | .dirty => s.leaveDirty t.segment
  | .ring => ((s.leaveRing t.segment).overtake (s.retiredLast t.segment)).awaitSpace

/-- R96, order 1 and order 4: nothing is chosen, and the reclaim unit is IDLE. -/
def State.chooseNothing (s : State) : State := { s with reclaim := .idle }.redecidePressure

end Sys2Proof.Machine
end

