-- ==== Sys2Proof/Machine/Sequencer.lean ====
section
/-! DEFINITION. The array sequencer (chapter 6): when the array is free, the decision of R112 and the grant it makes, what
follows at the end of every command, and the operation that a granted requester carries out. -/

namespace Sys2Proof.Machine

/-- R109: the array is free when no operation holds it and the head erase, if there is one, is not ACTIVE. -/
def State.arrayFree (s : State) : Bool := s.seq.grant = .none && !s.eraseActive

/-- What a decision does (R112). -/
inductive Decision where
  | nothing
  | retire
  | append
  | fetch (p : Port)
  | config
  | resume
  | start
deriving DecidableEq, Repr

/-- R112, order 5: the ports in cyclic order after a port. -/
def portsAfter : Port → List Port
  | .a => [.b, .c, .a]
  | .b => [.c, .a, .b]
  | .c => [.a, .b, .c]

/-- R112, orders 3 to 10, when the array is free. -/
def State.decideFree (s : State) : Decision :=
  if s.retirePending then .retire
  else if s.appendPending && s.seq.fetchCount = Config.fetchLimit then .append
  else
    match (portsAfter s.seq.lastFetch).find? s.fetchPending with
    | some p => .fetch p
    | none =>
      if s.appendPending then .append
      else if s.configPending then .config
      else if s.seq.erases.isEmpty then .nothing
      else
        match s.seq.head with
        | .suspended => .resume
        | .pending => .start
        | .active => .nothing

/-! ### Grants -/

/-- R109: a requester holds the array. -/
def State.hold (s : State) (g : Grant) : State := { s with seq := { s.seq with grant := g } }

/-- R112: the consecutive fetch count goes back to 0 when the append request is granted. -/
def State.appendGranted (s : State) : State := { s with seq := { s.seq with fetchCount := 0 } }

/-- R112, order 5: the last fetch port becomes the port granted, and the consecutive fetch count rises when an
append request is pending. -/
def State.fetchGranted (s : State) (p : Port) : State :=
  { s with
    seq :=
      { s.seq with
        lastFetch := p
        fetchCount := if s.appendPending then min Config.fetchLimit (s.seq.fetchCount + 1) else s.seq.fetchCount } }

/-- R80: the cursor whose fetch of a port has the request for the array. -/
def State.fetchOf (s : State) (p : Port) : Option Nat :=
  (s.cursors.fetchList.find? fun e => e.owner = p && !e.held).map FetchEntry.id

/-- R43, R53: the head's buffer goes to WRITING and the writer with it. -/
def State.beginWriting (s : State) (e : Entry) : State :=
  let s := { s with writer := { s.writer with state := .writing } }
  match e.source with
  | .part _ => s
  | .host p b _ _ => s.setBuffer p b { (s.port p).buffer b with state := .writing }

/-- R52: the head is examined again at the grant, and can still proceed. -/
def State.headProceeds (s : State) : Bool :=
  match s.writer.queue with
  | [] => false
  | e :: _ => !s.exhausted && s.canProceed e

/-- R52, R53: the head goes to WRITING at the grant. -/
def State.writeHead (s : State) : State :=
  match s.writer.queue with
  | [] => s
  | e :: _ => s.beginWriting e

/-- R96: a retire grant finds a target to choose. -/
def State.retireFinds (s : State) : Bool := s.chooseTarget.isSome

/-- R110: what a decision leads to when its requester has no work to do: the grant counts as one of its class and ends at
once. None when there is work. -/
def State.emptyGrant (s : State) : Decision → Option State
  | .retire => if s.retireFinds then none else some s.chooseNothing
  | .append => if s.headProceeds then none else some s.appendGranted.examineHead
  | _ => none

/-- R112: what a decision grants to a requester that has work, with what it does at the moment of the grant. For a retire
request the array is kept free; R96's grant is its event (log 12). -/
def State.makeGrant (s : State) : Decision → State
  | .nothing => s
  | .retire => s.hold .retire
  | .append => s.appendGranted.writeHead.hold .append
  | .fetch p => (s.fetchGranted p).hold (.fetch p (s.fetchOf p))
  | .config => s.hold .config
  | .resume => s.hold .resume
  | .start => s.hold .start

/-- What follows a command before a decision: the reclaim unit examines R95's conditions, and an erase whose slice has
elapsed yields to a request that has come (R112, R114). -/
def State.examineRequests (s : State) : State := s.examineReclaim.suspendIfMet

/-- R111, R112: decisions, while the array is free, until a requester that has work is granted or nothing is pending. `fuel`
bounds them: a grant with no work leaves its requester no further request of the same kind without work, so that three
are enough (`decisions_enough` in Laws/Settle.lean). -/
def State.decisions : Nat → State → State
  | 0, s => s
  | fuel + 1, s =>
    let t := s.examineRequests
    if t.arrayFree then
      match t.emptyGrant t.decideFree with
      | some u => State.decisions fuel u
      | none => t.makeGrant t.decideFree
    else t

/-- What follows at the end of a command that may have changed its conditions: a request at a free array is granted
at once (R111). DESIGN CHOICE (log 32): of several requests that ONE command brings to a free array, of which R111 lets
either be taken first, the first is that of R112's table. -/
def State.settle (s : State) : State := s.decisions 3

/-- The operation of a requester that holds the array is carried out to its end, and the array becomes free for the next
decision (R109, R112). An operation that does not hold the array does not happen (log 11). -/
def carriedOut (g : Grant) (operation : State → State) (s : State) : State :=
  if s.inReset || s.seq.grant ≠ g then s else (operation (s.hold .none)).settle

/-! ### Withdrawal (R111) -/

/-- R72, R111: a fetch is withdrawn from the list; if it holds the array its grant runs on and its find is discarded. -/
def State.withdrawFetch (s : State) (id : Nat) : State :=
  match s.seq.grant with
  | .fetch p (some k) => if k = id then (s.dropFetch id).hold (.fetch p none) else s.dropFetch id
  | _ => s.dropFetch id

/-! ### The head erase -/

/-- R114: the slice of an erase, read from the active configuration at each start and resume. -/
def State.fullSlice (s : State) : Slice := .running s.store.active.eraseSlice

/-- R114, R115: the head erase becomes ACTIVE with a full slice. -/
def State.activateErase (s : State) : State :=
  { s with seq := { s.seq with head := .active, slice := s.fullSlice } }

/-- R116, step 4: the head leaves the erase list, and the next entry becomes the head, PENDING. -/
def State.endErase (s : State) : State :=
  { s with seq := { s.seq with erases := s.seq.erases.tail, head := .pending, slice := .stopped } }

end Sys2Proof.Machine
end

