-- ==== Sys2Proof/Machine/Append.lean ====
section
/-! DEFINITION. Appending records (chapter 3): BEGIN RECORD, LOAD, ABANDON, COMMIT, and the write-out of the head
of the append queue. -/

namespace Sys2Proof.Machine

/-- R3, R44, R47: the stream table entry of a stream in the active configuration. -/
def State.activeStream (s : State) (n : Nat) : StreamEntry := s.store.active.stream n

/-- R44. -/
def beginRecord (p : Port) (buffer stream : Byte) (length : BitVec 16) (s : State) : Reply :=
  match bufferOf buffer with
  | none => .refuse s .badValue
  | some b =>
    match firstHolding
        [(s.control.mode ≠ .run, .wrongMode),
          (((s.port p).buffer b).state ≠ .empty, .bufferBusy),
          (stream.toNat < 1 || 15 < stream.toNat, .badStream),
          (!(s.activeStream stream.toNat).writers.has p, .noRight),
          ((s.activeStream stream.toNat).closed, .streamClosed),
          (1024 < length.toNat, .badLength)] with
    | some code => .refuse s code
    | none =>
      { state :=
          s.setBuffer p b
            { state := .loading, stream := stream.toNat, length := length.toNat, bytes := [], tag := 0 }
        code := .ok
        result := [] }

/-- R44: BEGIN RECORD. -/
def execBeginRecord (p : Port) (buffer stream : Byte) (length : BitVec 16) (s : State) :
    Host.Outcome State Fault Refusal :=
  .next (hostFrame p .needed .append (beginRecord p buffer stream length) s)

/-- R45, by the buffer's state. -/
def load (p : Port) (buffer : Byte) (offset : BitVec 16) (bytes : List Byte) (s : State) : Reply :=
  match bufferOf buffer with
  | none => .refuse s .badValue
  | some b =>
    let u := (s.port p).buffer b
    match u.state with
    | .loading =>
      if offset.toNat = u.bytes.length && u.bytes.length + bytes.length ≤ u.length then
        { state := s.setBuffer p b { u with bytes := u.bytes ++ bytes }, code := .ok, result := [] }
      else
        { state := s.setBuffer p b { u with state := .faulted }, code := .badOffset, result := [] }
    | .faulted => .refuse s .bufferFaulted
    | .queued => .refuse s .bufferBusy
    | .writing => .refuse s .bufferBusy
    | .empty => .refuse s .badOffset

/-- R177: a frame that is rejected: only the last-frame-rejected indication is set. The status byte has been
shifted out (R178); a frame whose check byte arrived is answered FRAME_ERROR, and one cut short by the release of
select is not answered. Select is released with the end of the frame (log 14). -/
def rejectFrame (p : Port) (answered : Bool) (s : State) : State :=
  if s.inReset then s
  else
    s.modPort p fun u =>
      { u with
        statusOut := s.statusByte p
        lastRejected := true
        link := .idle
        response := if answered then some { code := .frameError, result := [] } else none }

/-- R45: LOAD. A frame with no bytes or more than 64 is of wrong length and is rejected (R177). -/
def execLoad (p : Port) (buffer : Byte) (offset : BitVec 16) (bytes : List Byte) (s : State) :
    Host.Outcome State Fault Refusal :=
  .next
    (if 1 ≤ bytes.length && bytes.length ≤ 64 then
      hostFrame p .needed .staging (load p buffer offset bytes) s
    else rejectFrame p true s)

/-- R46. -/
def abandon (p : Port) (buffer : Byte) (s : State) : Reply :=
  match bufferOf buffer with
  | none => .refuse s .badValue
  | some b =>
    match ((s.port p).buffer b).state with
    | .queued => .refuse s .bufferBusy
    | .writing => .refuse s .bufferBusy
    | _ => { state := s.setBuffer p b .cleared, code := .ok, result := [] }

/-- R46: ABANDON. -/
def execAbandon (p : Port) (buffer : Byte) (s : State) : Host.Outcome State Fault Refusal :=
  .next (hostFrame p .needed .staging (abandon p buffer) s)

/-- R47: the conditions of COMMIT on a buffer, in order. -/
def commitRefusal (p : Port) (u : Buffer) (s : State) : Option Code :=
  firstHolding
    [(u.state = .empty, .incomplete),
      (u.state = .faulted, .bufferFaulted),
      (u.state = .queued || u.state = .writing, .bufferBusy),
      (s.control.mode ≠ .run, .wrongMode),
      (u.bytes.length < u.length, .incomplete),
      (!(s.activeStream u.stream).writers.has p, .noRight),
      ((s.activeStream u.stream).closed, .streamClosed),
      (!s.slotFree p, .noSlot)]

/-- R48: the entry of a committed record. -/
def commitEntry (p : Port) (b : BufferId) (u : Buffer) (tag : Byte) : Entry :=
  { kind := .data, source := .host p b tag true, stream := u.stream, length := u.length, crc := crc32 u.bytes }

/-- R47, R48. -/
def commit (p : Port) (buffer tag : Byte) (s : State) : Reply :=
  match bufferOf buffer with
  | none => .refuse s .badValue
  | some b =>
    let u := (s.port p).buffer b
    match commitRefusal p u s with
    | some code => .refuse s code
    | none =>
      { state :=
          (((s.reserveSlot p).setBuffer p b { u with state := .queued, tag := tag }).joinQueue
            (commitEntry p b u tag)).settle
        code := .queued
        result := [] }

/-- R47: COMMIT. -/
def execCommit (p : Port) (buffer tag : Byte) (s : State) : Host.Outcome State Fault Refusal :=
  .next (hostFrame p .needed .append (commit p buffer tag) s)

/-! ### Write-out (R53 to R60) -/

/-- What is fixed for a record and its retry (R54). -/
structure Assigned where
  sequence : Nat
  mountNumber : Nat
  tick : Nat

/-- The payload of an entry: its staging buffer's bytes, or those held in a system entry (R49). -/
def State.entryPayload (s : State) (e : Entry) : List Byte :=
  match e.source with
  | .host p b _ _ => ((s.port p).buffer b).bytes
  | .part payload => payload

/-- R1, R2: the origin code of an entry. -/
def Entry.origin (e : Entry) : Byte :=
  match e.source with
  | .host p _ _ _ => portByte p
  | .part _ => partByte

/-- R55, step 2: the payload lines in order, up to the first that fails its verify. -/
def Work.programLines (w : Work) (i line : Nat) : List (List Byte) → Work × Bool
  | [] => (w, true)
  | l :: rest =>
    match w.program (lineAddress i line) l with
    | (w, false) => (w, false)
    | (w, true) => w.programLines i (line + 1) rest

/-- R55, step 1: the header program. R61: of one cut short mount finds an INVALID record, or a blank place. -/
def Work.programHeader (w : Work) (i line : Nat) (header : List Byte) : Work × Bool :=
  w.programHeld (lineAddress i line) header fun m =>
    !w.cutsHere || (match recordAt m i line with
      | .invalid => true
      | .blank => true
      | _ => false)

/-- R55, step 3: the COMMIT program. R61: in a write-out that a reset stops it leaves no COMMIT mark; a write-out whose
COMMIT mark has verified is not in progress any more. -/
def Work.programCommit (w : Work) (i line : Nat) : Work × Bool :=
  match w.program (lineAddress i line + 24) (wordBytes commitPattern) with
  | (after, verified) =>
    if verified && w.cutting then (after.mod fun s => { s with array := w.s.array }, false) else (after, verified)

/-- R55: the three steps of a record at a line of a segment, each verified before the next begins. -/
def Work.writeRecord (w : Work) (i line : Nat) (e : Entry) (payload : List Byte) (a : Assigned) : Work × Bool :=
  match w.programHeader i line
      (headerBytes e.kind.byte (BitVec.ofNat 8 e.stream) e.origin a.sequence a.mountNumber a.tick e.length
        e.crc.toNat) with
  | (w, false) => (w, false)
  | (w, true) =>
    match w.programLines i (line + 2) (payloadLines (extent e.length - 2) payload) with
    | (w, false) => (w, false)
    | (w, true) => w.programCommit i line

/-- R25, R58: the fill of a segment advances by a record's extent. -/
def State.advanceFill (s : State) (i : Nat) (e : Entry) : State :=
  s.modSeg i fun g => { g with fill := some (g.fill.getD 0 + extent e.length) }

/-- R58, steps 1 to 4: a record whose program failed is cancelled, its segment sealed at its last durable record,
and the fault reported. -/
def Work.cancelRecord (w : Work) (i line : Nat) (e : Entry) : Work :=
  let w :=
    match w.program (lineAddress i line + 28) (wordBytes voidPattern) with
    | (w, true) => w.mod (·.faultSeg i)
    | (w, false) => w.mod fun s => (s.faultSeg i).faultSeg i
  let w := w.mod (·.advanceFill i e)
  (w.seal i (w.s.seg i).last).mod (·.handAll (.mediaFault i .record))

/-- R84: the WAITING cursors whose filter contains a stream go to FETCHING and join the fetch list, held for a
port other than the claimant while the part is under service (R90). -/
def State.wake (s : State) (stream : Nat) : State :=
  cursorIds.foldl
    (fun s id =>
      match s.cursor id with
      | none => s
      | some c =>
        match c.state with
        | .waiting r =>
          if c.filter.getLsbD stream then
            (s.setCursor id (some { c with state := .fetching r })).joinFetch id c.owner
              (s.underService && !s.isClaimant c.owner)
          else s
        | _ => s)
    s

/-- R69: both positions of every cursor are at or above B. DESIGN CHOICE (log 29): where B rises because the newest durable
sequence number does (R17, second case), positions that lay below it rise with it, as R87 has them rise at a retire; no
durable record lies between. -/
def State.raisePositions (s : State) : State := s.mapCursors (·.raisedTo s.oldest)

/-- R56: the record is durable. B may rise with it (R17; log 29). -/
def State.becomeDurable (s : State) (i : Nat) (e : Entry) (a : Assigned) : State :=
  let s := { s with writer := { s.writer with newestDurable := a.sequence } }
  let s := (s.modSeg i fun g => { g with last := a.sequence }).advanceFill i e
  (s.raisePositions.wake e.stream).leaveHead e .ok (some a.sequence)

/-- R53, R59: the segment and the line a record is written at, none when no segment could be had. -/
def Work.secure (w : Work) (e : Entry) : Work × Option (Nat × Nat) :=
  if w.s.fits e then
    match w.s.openSegment with
    | none => (w, none)
    | some i => (w, some (i, Config.firstDataLine + (w.s.seg i).fill.getD 0))
  else
    match (w.sealOpen).openSegment w.s.writer.nextSequence with
    | (w, none) => (w, none)
    | (w, some i) => (w, some (i, Config.firstDataLine))

/-- R54: the record's sequence number, tick and mount number; the next sequence number is incremented. -/
def State.assign (s : State) : Assigned :=
  { sequence := s.writer.nextSequence, mountNumber := s.mount.number, tick := s.tick.toNat }

/-- R54: the increment. -/
def State.consumeSequence (s : State) : State :=
  { s with writer := { s.writer with nextSequence := s.writer.nextSequence + 1 } }

/-- R60: the entry leaves with MEDIA_FAULT. -/
def Work.failEntry (w : Work) (e : Entry) : Work := w.mod (·.leaveHead e .mediaFault none)

/-- R59, R60: the one retry, in a new segment with leave to take the reserve. -/
def Work.retryRecord (w : Work) (e : Entry) (payload : List Byte) (a : Assigned) : Work :=
  if w.s.openAllowed true then
    match w.openSegment a.sequence with
    | (w, none) => w.failEntry e
    | (w, some i) =>
      match w.writeRecord i Config.firstDataLine e payload a with
      | (w, true) => w.mod (·.becomeDurable i e a)
      | (w, false) => (w.cancelRecord i Config.firstDataLine e).failEntry e
  else w.failEntry e

/-- R53 to R60: the write-out of the head. -/
def Work.writeOut (w : Work) (e : Entry) : Work :=
  let payload := w.s.entryPayload e
  match w.secure e with
  | (w, none) => w.failEntry e
  | (w, some (i, line)) =>
    let a := w.s.assign
    match (w.mod State.consumeSequence).writeRecord i line e payload a with
    | (w, true) => w.mod (·.becomeDurable i e a)
    | (w, false) => (w.cancelRecord i line e).retryRecord e payload a

/-- R52, R54: the write-out has ended and the writer holds no head; exhausted sequence numbers freeze the part; then the
next head is examined. -/
def State.endWriteOut (s : State) : State :=
  let s := s.setWriter .idle s.writer.pressure s.writer.holdTimer
  let s := if s.exhausted then s.enterFrozen .sequence else s
  s.examineHead

/-- R52, R53: the append writer's operation. Its grant finds a head in WRITING, which is written out. Any other state of the
writer, which no run reaches here, has its head examined. -/
def Work.appendGrant (w : Work) : Work :=
  match w.s.writer.state, w.s.writer.queue with
  | .writing, e :: _ => (w.writeOut e).mod State.endWriteOut
  | _, _ => w.mod State.examineHead

/-- R53: APPEND_WRITE_OUT. -/
def execAppendWriteOut (media : List Programmed) (s : State) : Host.Outcome State Fault Refusal :=
  .next (carriedOut .append (fun s => ({ s := s, media := media, cutting := false : Work }.appendGrant).s) s)

end Sys2Proof.Machine
end

