-- ==== Sys2Proof/Machine/Examine.lean ====
section
/-! DEFINITION. Where a fetch starts and the headers it examines in one grant (R81, R82). -/

namespace Sys2Proof.Machine

/-- How the examination of headers in one grant ends (R82). -/
inductive FetchEnd where
  /-- a record to deliver, at a line of a segment (R83) -/
  | found (segment line : Nat) (header : Header)
  /-- the allowance is used; the next position to be read -/
  | allowanceUsed (segment line : Nat)
  /-- the end of the journal; the position reached, none when no segment was read (R84) -/
  | endReached (position : Option (Nat × Nat))
deriving DecidableEq, Repr

/-- A segment's records have ended: the fetch goes on at line 4 of the next segment of the ring, `none` when there is
no other. -/
def nextSegment : List Nat → Option (Nat × List Nat)
  | [] => none
  | i :: rest => some (i, rest)

/-- R82: from a position, with the segments of the ring that follow, examine headers until a delivery, the end of the
journal, or the end of the allowance; with the delivered position reached. `fuel` bounds the headers and the segments
together. DEDUCED (log 23): with the allowance used, the next position is not looked at. -/
def examineHeaders (m : Memory) (filter : BitVec 16) :
    Nat → (allowance segment line : Nat) → (rest : List Nat) → (delivered : Nat) → FetchEnd × Nat
  | 0, _, segment, line, _, delivered => (.endReached (some (segment, line)), delivered)
  | fuel + 1, allowance, segment, line, rest, delivered =>
    if allowance = 0 then (.allowanceUsed segment line, delivered)
    else
      let segmentEnds (allowance : Nat) :=
        match nextSegment rest with
        | none => (FetchEnd.endReached (some (segment, line)), delivered)
        | some (i, rest) => examineHeaders m filter fuel allowance i Config.firstDataLine rest delivered
      let stepOver (h : Header) (delivered : Nat) :=
        examineHeaders m filter fuel (allowance - 1) segment (line + extent h.length) rest delivered
      if Config.segmentLines ≤ line then segmentEnds allowance
      else
        match recordAt m segment line with
        | .blank => segmentEnds allowance
        | .invalid => segmentEnds (allowance - 1)
        | .voidedUnreadable => segmentEnds (allowance - 1)
        | .torn h => stepOver h delivered
        | .voided h => stepOver h delivered
        | .durable h =>
          if h.sequence ≤ delivered then stepOver h delivered
          else if filter.getLsbD h.stream.toNat then (.found segment line h, delivered)
          else stepOver h h.sequence

/-- The segments of the ring that come after a segment. -/
def ringAfter (i : Nat) : List Nat → List Nat
  | [] => []
  | j :: rest => if j = i then rest else ringAfter i rest

/-- R81: whether a hint is valid. -/
def State.hintValid (s : State) (h : Hint) : Bool :=
  s.segs.ring.contains h.segment && (s.seg h.segment).generation = h.generation

/-- R82, step 2: the ring from the first segment whose last sequence is above the delivered position, passing over
segments that hold no durable record. -/
def State.locate (s : State) (delivered : Nat) : List Nat → List Nat
  | [] => []
  | i :: rest =>
    if (s.seg i).first ≤ (s.seg i).last && delivered < (s.seg i).last then i :: rest
    else s.locate delivered rest

/-- R82: where a fetch starts: segment, line and the ring that follows; none when no segment qualifies. -/
def State.fetchStart (s : State) (c : Cursor) : Option (Nat × Nat × List Nat) :=
  let fromMap :=
    match s.locate c.delivered s.segs.ring with
    | [] => none
    | i :: rest => some (i, Config.firstDataLine, rest)
  match c.hint with
  | none => fromMap
  | some h => if s.hintValid h then some (h.segment, h.line, ringAfter h.segment s.segs.ring) else fromMap

/-- R82: the examination of one grant. -/
def State.fetchScan (s : State) (c : Cursor) : FetchEnd × Nat :=
  match s.fetchStart c with
  | none => (.endReached none, c.delivered)
  | some (segment, line, rest) =>
    examineHeaders s.array c.filter (Config.fetchAllowance + rest.length + 2) Config.fetchAllowance segment line rest
      c.delivered

/-- R81: a hint at a position, with the generation of the segment's entry. -/
def State.hintAt (s : State) (segment line : Nat) : Hint :=
  { segment := segment, generation := (s.seg segment).generation, line := line }

end Sys2Proof.Machine
end

