-- ==== Sys2Proof/Machine/Ports.lean ====
section
/-! DEFINITION. Port and journal commands (chapter 11), rejected frames, and the departure of a port, which DETACH
and lease expiry share. -/

namespace Sys2Proof.Machine

/-! ### Departure (R181, R182) -/

/-- R181 (steps 1, 4 and 5), R63, R85, R174: what the port's own units do as it departs. The attention mask is
kept. DESIGN CHOICE (log 33): so is the lease, to which R181 and R182 give no value though R176 says that it changes here;
nothing reads it before the next ATTACH sets it. -/
def PortUnit.depart (u : PortUnit) (byLease : Bool) : PortUnit :=
  let leave (b : Buffer) : Buffer :=
    match b.state with
    | .loading => .cleared
    | .faulted => .cleared
    | _ => b
  { u with
    attached := false
    leaseTimer := none
    detachedByLease := byLease
    window := []
    lists := .cleared
    buffer0 := leave u.buffer0
    buffer1 := leave u.buffer1 }

/-- R63: an entry of a departed port has report no. -/
def Entry.dropReport (e : Entry) (p : Port) : Entry :=
  match e.source with
  | .host q b tag report => { e with source := .host q b tag (report && q ≠ p) }
  | .part _ => e

/-- R63: the entries of a departed port. -/
def State.dropReports (s : State) (p : Port) : State :=
  { s with writer := { s.writer with queue := s.writer.queue.map (·.dropReport p) } }

/-- Whether a port owns a RETAINING cursor. -/
def State.retains (s : State) (p : Port) : Bool :=
  s.cursors.table.any fun slot =>
    match slot with
    | some c => c.owner = p && c.mode = .retaining
    | none => false

/-- R89: a cursor of a departed port: closed by DETACH; kept IDLE and LOSSY by lease expiry. -/
def Cursor.depart (c : Cursor) (p : Port) (byLease : Bool) : Option Cursor :=
  if c.owner = p then
    if byLease then some { c with state := .idle, mode := .lossy } else none
  else some c

/-- R82, R89: the steps over records outside the filter that a fetch makes in the grant it holds stand though the fetch is
cancelled. DEDUCED (log 12): they are entered as the fetch is cancelled, and the hint is kept. -/
def State.keepSteps (s : State) (id : Nat) : State :=
  match s.cursor id with
  | none => s
  | some c =>
    match c.state with
    | .fetching _ => s.setCursor id (some { c with delivered := (s.fetchScan c).2 })
    | _ => s

/-- R89, R111: a fetch of a departing port that holds the array runs on, keeps its steps, and its find is discarded. -/
def State.discardFind (s : State) (p : Port) : State :=
  match s.seq.grant with
  | .fetch q (some id) => if q = p then (s.keepSteps id).hold (.fetch q none) else s
  | _ => s

/-- R89: the cursor unit as a port departs, and the reclaim unit told of it (R76). -/
def State.departCursors (s : State) (p : Port) (byLease : Bool) : State :=
  let s' :=
    { s with
      cursors :=
        { table := s.cursors.table.map fun slot => slot.bind (·.depart p byLease)
          fetchList := s.cursors.fetchList.filter fun e => e.owner ≠ p } }
  if s.retains p then s'.floorChanged else s'

/-- R130: the claim as a port departs. -/
def State.departClaim (s : State) (p : Port) : State :=
  if s.isClaimant p then
    match s.control.operation with
    | none => s.endClaim
    | some op =>
      { s with control := { s.control with phase := .ending, operation := some { op with report := false } } }
  else s

/-- R181, R182: a port departs. -/
def State.depart (s : State) (p : Port) (byLease : Bool) : State :=
  (((((s.modPort p (·.depart byLease)).dropReports p).discardFind p).departCursors p byLease).departClaim p).settle

/-! ### READ STATUS, ATTACH, DETACH, READ CLOCK -/

/-- R183: the status byte after the effects of the frame's own taking. -/
def readStatus (p : Port) (s : State) : Reply := { state := s, code := .ok, result := [s.statusByte p] }

/-- R183: READ STATUS. -/
def execReadStatus (p : Port) (s : State) : Host.Outcome State Fault Refusal :=
  .next (hostFrame p .notNeeded .always (readStatus p) s)

/-- R182: the lease timer started with a lease. -/
def leaseStart (lease : Byte) : Option Nat := if lease = 0 then none else some (100 * lease.toNat)

/-- R180. A mask of another value is refused before the lease is looked at (log 16). -/
def attach (p : Port) (lease mask : Byte) (s : State) : Reply :=
  match maskOf mask with
  | none => .refuse s .badValue
  | some (completions, notices) =>
    let u := s.port p
    if u.attached && s.claimOrLease p && lease = 0 then .refuse s .noRight
    else
      { state :=
          s.setPort p
            { u with
              attached := true
              lease := lease
              leaseTimer := leaseStart lease
              maskCompletions := completions
              maskNotices := notices
              detachedByLease := false }
        code := .ok
        result := [] }

/-- R180: ATTACH. -/
def execAttach (p : Port) (lease mask : Byte) (s : State) : Host.Outcome State Fault Refusal :=
  .next (hostFrame p .notNeeded .always (attach p lease mask) s)

/-- R181. -/
def detach (p : Port) (s : State) : Reply := { state := s.depart p false, code := .ok, result := [] }

/-- R181: DETACH. -/
def execDetach (p : Port) (s : State) : Host.Outcome State Fault Refusal :=
  .next (hostFrame p .needed .always (detach p) s)

/-- R183. -/
def readClock (s : State) : Reply :=
  { state := s, code := .ok, result := be 4 s.tick.toNat ++ be 2 s.mount.number }

/-- R183: READ CLOCK. -/
def execReadClock (p : Port) (s : State) : Host.Outcome State Fault Refusal :=
  .next (hostFrame p .needed .other readClock s)

/-! ### QUERY JOURNAL and QUERY SEGMENT (R184) -/

/-- R18, R152, R184, R189: the last mount's findings, in the order of the rules, each in the fewest bytes. -/
def Findings.bytes (f : Findings) : List Byte :=
  be 2 f.mountNumber ++ be 2 f.torn ++ be 1 f.dirty ++ be 1 f.bad ++ be 1 f.service ++
    [f.source.byte, yesNo f.sealedEarly, f.causes.byte] ++ be 6 f.recordSequence

/-- R184: none in claim phase ENDING. -/
def State.reportedClaimant (s : State) : Option Port :=
  if s.control.phase = .ending then none else s.control.claimant

/-- R184: the result of QUERY JOURNAL. -/
def State.journalBytes (s : State) : List Byte :=
  be 6 s.oldest ++ be 6 s.writer.newestDurable ++ be 6 s.writer.nextSequence ++ be 1 s.segs.pool.length ++
    be 1 s.segs.dirty.length ++ be 1 (Config.journalCount - s.segs.usable) ++
    [s.control.mode.byte, s.control.frozen.byte, optionalPortByte s.reportedClaimant, s.writer.pressure.byte] ++
    be 2 s.mount.number ++ s.mount.findings.bytes

/-- R184. -/
def queryJournal (s : State) : Reply := { state := s, code := .ok, result := s.journalBytes }

/-- R184: QUERY JOURNAL. -/
def execQueryJournal (p : Port) (s : State) : Host.Outcome State Fault Refusal :=
  .next (hostFrame p .needed .other queryJournal s)

/-- R25, R42, R189: a map entry, in the order of R25; an absent field reads zero. -/
def SegEntry.bytes (e : SegEntry) (index : Nat) : List Byte :=
  be 1 index ++ [e.state.byte] ++ be 4 e.generation ++ be 6 e.first ++ be 6 e.last ++ be 2 (e.fill.getD 0) ++
    be 3 (e.eraseCount.getD 0) ++ be 1 e.faults ++ [(e.bad.map BadReason.byte).getD 0]

/-- R184. -/
def querySegment (index : Byte) (s : State) : Reply :=
  if Config.firstJournal ≤ index.toNat && index.toNat ≤ Config.lastJournal then
    { state := s, code := .ok, result := (s.seg index.toNat).bytes index.toNat }
  else .refuse s .badValue

/-- R184: QUERY SEGMENT. -/
def execQuerySegment (p : Port) (index : Byte) (s : State) : Host.Outcome State Fault Refusal :=
  .next (hostFrame p .needed .other (querySegment index) s)

/-! ### Rejected frames (R177) -/

/-- R177: a frame that fails its checks. -/
def execFrameError (p : Port) (cause : FrameFault) (s : State) : Host.Outcome State Fault Refusal :=
  .next (rejectFrame p (cause ≠ .cutShort) s)

end Sys2Proof.Machine
end

