-- ==== Sys2Proof/Machine/Cursors.lean ====
section
/-! DEFINITION. Cursor commands (chapter 4), READ NEXT and READ WINDOW. -/

namespace Sys2Proof.Machine

/-- R70, check 3: the cursor a port names by its id, if it is the port's. -/
def State.ownCursor (s : State) (p : Port) (id : Byte) : Option Cursor :=
  match s.cursor id.toNat with
  | none => none
  | some c => if c.owner = p then some c else none

/-- R70, check 3: NO_CURSOR unless the id names a cursor of the port. -/
def withCursor (p : Port) (id : Byte) (body : Cursor → State → Reply) (s : State) : Reply :=
  match s.ownCursor p id with
  | none => .refuse s .noCursor
  | some c => body c s

/-- R76: the reclaim unit is told when a RETAINING cursor is concerned. -/
def State.tellFloor (s : State) (c : Cursor) : State := if c.mode = .retaining then s.floorChanged else s

/-- R68: the number of cursors a port owns. -/
def State.ownedCount (s : State) (p : Port) : Nat :=
  s.cursors.table.countP fun slot =>
    match slot with
    | some c => c.owner = p
    | none => false

/-- R71: the lowest-numbered empty slot. -/
def State.emptySlot (s : State) : Option Nat := cursorIds.find? fun id => (s.cursor id).isNone

/-- R71: where a cursor starts. -/
def State.startPosition (s : State) : Start → Nat
  | .oldest => s.oldest
  | .newest => s.writer.newestDurable

/-- R71: a new cursor. -/
def newCursor (p : Port) (filter : BitVec 16) (mode : CursorMode) (position : Nat) : Cursor :=
  { owner := p, filter := filter, mode := mode, delivered := position, acked := position, hint := none
    state := .idle, overrun := 0 }

/-- R71. -/
def openCursor (p : Port) (filter : BitVec 16) (start mode : Byte) (s : State) : Reply :=
  if s.formatInFlight then .refuse s .busy
  else if filter = 0 then .refuse s .badStream
  else
    match startOf start, cursorModeOf mode with
    | some start, some mode =>
      match s.emptySlot with
      | none => .refuse s .noCursor
      | some id =>
        if 8 ≤ s.ownedCount p then .refuse s .noCursor
        else
          let position := s.startPosition start
          let c := newCursor p filter mode position
          { state := ((s.setCursor id (some c)).tellFloor c).settle
            code := .ok
            result := be 1 id ++ be 6 position }
    | _, _ => .refuse s .badValue

/-- R71: OPEN CURSOR. -/
def execOpenCursor (p : Port) (filter : BitVec 16) (start mode : Byte) (s : State) :
    Host.Outcome State Fault Refusal :=
  .next (hostFrame p .needed .cursor (openCursor p filter start mode) s)

/-- R72, step 1; R91: an outstanding READ NEXT completes CANCELLED to the cursor's owner. -/
def State.cancelRead (s : State) (c : Cursor) : State :=
  match c.state.request with
  | none => s
  | some r => s.post c.owner (bareCompletion .readNext r.tag .cancelled)

/-- R72: a cursor's request is cancelled, its slot emptied, and its fetch withdrawn, or what it finds discarded when it
holds the array. -/
def State.closeSlot (s : State) (id : Nat) (c : Cursor) : State :=
  ((s.cancelRead c).withdrawFetch id).setCursor id none

/-- R72. -/
def closeCursor (id : Byte) (c : Cursor) (s : State) : Reply :=
  { state := ((s.closeSlot id.toNat c).tellFloor c).settle, code := .ok, result := [] }

/-- R72: CLOSE CURSOR. -/
def execCloseCursor (p : Port) (id : Byte) (s : State) : Host.Outcome State Fault Refusal :=
  .next (hostFrame p .needed .cursor (withCursor p id (closeCursor id)) s)

/-- R73. DESIGN CHOICE (log 16): the rule gives BUSY and BAD_SEQUENCE no order; BUSY is looked at first. -/
def seek (id : Byte) (position : BitVec 48) (c : Cursor) (s : State) : Reply :=
  if c.state ≠ .idle then .refuse s .busy
  else if position.toNat = 0 || s.writer.newestDurable < position.toNat - 1 then .refuse s .badSequence
  else
    let gone := position.toNat - 1 < s.oldest
    let target := if gone then s.oldest else position.toNat - 1
    let c := { c with delivered := target, acked := target, hint := none }
    { state := ((s.setCursor id.toNat (some c)).tellFloor c).settle
      code := if gone then .gone else .ok
      result := be 6 target }

/-- R73: SEEK. -/
def execSeek (p : Port) (id : Byte) (position : BitVec 48) (s : State) : Host.Outcome State Fault Refusal :=
  .next (hostFrame p .needed .cursor (withCursor p id (seek id position)) s)

/-- R74. -/
def ack (id : Byte) (position : BitVec 48) (c : Cursor) (s : State) : Reply :=
  if c.acked < position.toNat && position.toNat ≤ c.delivered then
    { state := ((s.setCursor id.toNat (some { c with acked := position.toNat })).tellFloor c).settle
      code := .ok
      result := [] }
  else .refuse s .badSequence

/-- R74: ACK. -/
def execAck (p : Port) (id : Byte) (position : BitVec 48) (s : State) : Host.Outcome State Fault Refusal :=
  .next (hostFrame p .needed .cursor (withCursor p id (ack id position)) s)

/-- R75. -/
def rewind (id : Byte) (c : Cursor) (s : State) : Reply :=
  if c.state ≠ .idle then .refuse s .busy
  else
    { state := s.setCursor id.toNat (some { c with delivered := c.acked, hint := none })
      code := .ok
      result := be 6 c.acked }

/-- R75: REWIND. -/
def execRewind (p : Port) (id : Byte) (s : State) : Host.Outcome State Fault Refusal :=
  .next (hostFrame p .needed .cursor (withCursor p id (rewind id)) s)

/-- R77. -/
def setCursorMode (id mode : Byte) (c : Cursor) (s : State) : Reply :=
  match cursorModeOf mode with
  | none => .refuse s .badValue
  | some m =>
    { state :=
        if c.mode = m then s else ((s.setCursor id.toNat (some { c with mode := m })).floorChanged).settle
      code := .ok
      result := [] }

/-- R77: SET CURSOR MODE. -/
def execSetCursorMode (p : Port) (id mode : Byte) (s : State) : Host.Outcome State Fault Refusal :=
  .next (hostFrame p .needed .cursor (withCursor p id (setCursorMode id mode)) s)

/-- R78: the milliseconds left of a WAITING cursor's deadline; absent otherwise. -/
def CursorState.timeLeft : CursorState → Nat
  | .waiting r => r.deadline.getD 0
  | _ => 0

/-- R78, R189: a cursor's fields in the order of R78. -/
def Cursor.bytes (c : Cursor) (id : Nat) : List Byte :=
  be 1 id ++ be 2 c.filter.toNat ++ [c.mode.byte] ++ be 6 c.delivered ++ be 6 c.acked ++ [c.state.byte] ++
    [(c.state.request.map Request.tag).getD 0] ++ [yesNo c.hint.isSome] ++ be 2 c.state.timeLeft ++
    be 1 c.overrun

/-- R78. -/
def queryCursor (id : Byte) (c : Cursor) (s : State) : Reply :=
  { state := s, code := .ok, result := c.bytes id.toNat }

/-- R78: QUERY CURSOR. -/
def execQueryCursor (p : Port) (id : Byte) (s : State) : Host.Outcome State Fault Refusal :=
  .next (hostFrame p .needed .cursor (withCursor p id (queryCursor id)) s)

/-- R79: a cursor of the port is FETCHING or WAITING. -/
def State.reading (s : State) (p : Port) : Bool :=
  s.cursors.table.any fun slot =>
    match slot with
    | some c => c.owner = p && c.state ≠ .idle
    | none => false

/-- R79, R85: the read window is emptied. -/
def State.emptyWindow (s : State) (p : Port) : State := s.modPort p fun u => { u with window := [] }

/-- R79. -/
def readNext (p : Port) (id tag : Byte) (wait : BitVec 16) (c : Cursor) (s : State) : Reply :=
  if s.reading p then .refuse s .busy
  else if !s.slotFree p then .refuse s .noSlot
  else
    let c := { c with state := .fetching { tag := tag, wait := wait.toNat, deadline := none } }
    { state :=
        ((((s.reserveSlot p).emptyWindow p).setCursor id.toNat (some c)).joinFetch id.toNat p false).settle
      code := .queued
      result := [] }

/-- R79: READ NEXT. -/
def execReadNext (p : Port) (id tag : Byte) (wait : BitVec 16) (s : State) : Host.Outcome State Fault Refusal :=
  .next (hostFrame p .needed .cursor (withCursor p id (readNext p id tag wait)) s)

/-- R86. DESIGN CHOICE (log 16): the rule gives BAD_VALUE and BAD_OFFSET no order; the count is looked at before the window
and the range. -/
def readWindow (p : Port) (offset : BitVec 16) (count : Byte) (s : State) : Reply :=
  let image := (s.port p).window
  if count.toNat < 1 || 64 < count.toNat then .refuse s .badValue
  else if image.isEmpty || image.length < offset.toNat + count.toNat then .refuse s .badOffset
  else { state := s, code := .ok, result := (image.drop offset.toNat).take count.toNat }

/-- R86: READ WINDOW. -/
def execReadWindow (p : Port) (offset : BitVec 16) (count : Byte) (s : State) : Host.Outcome State Fault Refusal :=
  .next (hostFrame p .needed .cursor (readWindow p offset count) s)

end Sys2Proof.Machine
end

