-- ==== Sys2Proof/Machine/Fetch.lean ====
section
/-! DEFINITION. The fetch of a port (R82 to R84): what comes of the examination that its grant makes. -/

namespace Sys2Proof.Machine

/-- R83: the payload of the record at a line. -/
def readPayload (m : Memory) (segment line length : Nat) : List Byte :=
  m.readBytes (lineAddress segment (line + 2)) length

/-- R83: the record found is delivered. -/
def State.deliver (s : State) (id : Nat) (c : Cursor) (r : Request) (segment line : Nat) (h : Header) : State :=
  let image := windowImage id h (readPayload s.array segment line h.length)
  let s := s.modPort c.owner fun u => { u with window := image }
  let s :=
    s.setCursor id
      (some
        { c with
          delivered := h.sequence
          hint := some (s.hintAt segment (line + extent h.length))
          state := .idle })
  (s.dropFetch id).post c.owner
    { kind := .readNext, tag := r.tag, outcome := .ok, sequence := h.sequence, stream := h.stream.toNat
      length := h.length }

/-- R84: a request completes END. -/
def State.completeEnd (s : State) (c : Cursor) (r : Request) : State :=
  s.post c.owner (bareCompletion .readNext r.tag .endOfJournal)

/-- R84: the fetch has reached the end of the journal. -/
def State.fetchEnded (s : State) (id : Nat) (c : Cursor) (r : Request) : State :=
  let s := s.dropFetch id
  if r.wait = 0 || r.deadline = some 0 then (s.setCursor id (some { c with state := .idle })).completeEnd c r
  else
    s.setCursor id
      (some { c with state := .waiting { r with deadline := some (r.deadline.getD r.wait) } })

/-- R82 to R84: what the examination comes to. -/
def State.fetchOutcome (s : State) (id : Nat) (c : Cursor) (r : Request) : FetchEnd × Nat → State
  | (.found segment line h, delivered) => s.deliver id { c with delivered := delivered } r segment line h
  | (.allowanceUsed segment line, delivered) =>
    s.setCursor id (some { c with delivered := delivered, hint := some (s.hintAt segment line) })
  | (.endReached position, delivered) =>
    s.fetchEnded id { c with delivered := delivered, hint := position.map fun p => s.hintAt p.1 p.2 } r

/-- R82: the operation of a fetch that holds the array for a cursor; nothing when its find is discarded. -/
def State.fetch (s : State) (cursor : Option Nat) : State :=
  match cursor with
  | none => s
  | some id =>
    match s.cursor id with
    | none => s
    | some c =>
      match c.state with
      | .fetching r => s.fetchOutcome id c r (s.fetchScan c)
      | _ => s

/-- R82: the grant of a port's fetch. -/
def fetchGrant (p : Port) (s : State) : State :=
  match s.seq.grant with
  | .fetch q cursor => if q = p then carriedOut (.fetch q cursor) (·.fetch cursor) s else s
  | _ => s

/-- R82: FETCH_GRANT. -/
def execFetchGrant (p : Port) (s : State) : Host.Outcome State Fault Refusal := .next (fetchGrant p s)

end Sys2Proof.Machine
end

