-- ==== Sys2Proof/Machine/Format.lean ====
section
/-! DEFINITION. The copy write of the configuration store (R145, R146) and the steps of FORMAT (R133 to R135), with
the configuration program grant that both use. -/

namespace Sys2Proof.Machine

/-! ### Copy write -/

/-- R144: the copy segment that does not hold the active configuration. -/
def Selector.target : Selector → Nat
  | .copy0 => 1
  | .copy1 => 0
  | .default => 0

/-- R145, step 3: the selector that names a copy segment. -/
def selectorOf (segment : Nat) : Selector := if segment = 0 then .copy0 else .copy1

/-- R147, R135: the request kind of a service operation. -/
def OperationKind.requestKind : OperationKind → RequestKind
  | .commitConfig => .commitConfig
  | .format => .format

/-- R145, step 1: a copy write of a candidate begins with the erase of the target. -/
def State.startCopyWrite (s : State) (kind : OperationKind) (candidate : ConfigRecord) : State :=
  { s with
    store := { s.store with operation := .copyWrite kind .erase, candidate := some candidate } }.requestErase
      { requester := .store, segment := s.store.selector.target, attempt := 1 }

/-- R146: a copy write fails, and with it the operation it serves. -/
def State.failCopyWrite (s : State) (kind : OperationKind) : State :=
  (s.handAll (.mediaFault s.store.selector.target .config)).endOperation kind.requestKind .mediaFault

/-- R140, R145: the version, floors and format count of a record, carried into another. -/
def ConfigRecord.carry (r : ConfigRecord) (source : ConfigRecord) : ConfigRecord :=
  { r with
    version := source.version
    sequenceFloor := source.sequenceFloor
    mountFloor := source.mountFloor
    formatCount := source.formatCount }

/-- R145, step 3: the candidate becomes active. -/
def State.activateCandidate (s : State) (candidate : ConfigRecord) : State :=
  { s with
    store :=
      { s.store with
        active := candidate
        selector := selectorOf s.store.selector.target
        pendingCfg := s.store.pendingCfg.map fun (r : ConfigRecord) => r.carry candidate
        candidate := none } }.handAll (.configChanged candidate.version)

/-- R20, R50: a system entry. -/
def systemEntry (kind : RecordKind) (payload : List Byte) : Entry :=
  { kind := kind, source := .part payload, stream := 0, length := payload.length, crc := crc32 payload }

/-- R147: the CONFIG record's entry joins the append queue. -/
def State.queueConfigRecord (s : State) (version : Nat) : State :=
  { s with store := { s.store with operation := .copyWrite .commitConfig .record } }.joinQueue
    (systemEntry .config (configPayload version s.control.claimant))

/-- R133, step 3; R149: the candidate of FORMAT. -/
def State.formatCandidate (s : State) : ConfigRecord :=
  { s.store.active with
    version := s.store.active.version + 1
    sequenceFloor := s.writer.nextSequence
    mountFloor := s.mount.number
    formatCount := min 65535 (s.store.active.formatCount + 1) }

/-- Set the step of the FORMAT in flight. -/
def State.atFormatStep (s : State) (step : FormatStep) : State :=
  { s with control := { s.control with format := step } }

/-- R133, step 3. An active version that cannot rise makes the copy write fail with no erase or program (R149). -/
def State.formatCopyWrite (s : State) : State :=
  if s.store.active.version = Config.lastVersion then s.failCopyWrite .format
  else (s.atFormatStep .copyWrite).startCopyWrite .format s.formatCandidate

/-! ### FORMAT's erases and its end -/

/-- R135: FORMAT ends its erases. -/
def State.formatFinish (s : State) : State :=
  let s : State :=
    if Config.leastUsable ≤ s.segs.usable then
      let s : State := { s with control := { s.control with frozen := { s.control.frozen with media := false } } }
      if !s.control.frozen.sequence && s.control.mode = .frozen then s.changeMode .service .formatted else s
    else s
  if 1 < s.segs.pool.length then
    (s.atFormatStep .record).joinQueue
      (systemEntry .format
        (formatPayload s.store.active.formatCount s.store.active.sequenceFloor s.segs.usable))
  else s.endOperation .format .mediaFault

/-- R134, step 3: a segment is taken out of the collection it is in, or out of BAD, to ERASING. -/
def State.takeForFormat (s : State) (i : Nat) : State :=
  { s with
    segs :=
      { s.segs with pool := s.segs.pool.filter (· ≠ i), dirty := s.segs.dirty.filter (· ≠ i) } }.modSeg i
    SegEntry.toErasing

/-- R134, step 3: the erase of a segment FORMAT has taken. -/
def State.formatErase (s : State) (i : Nat) (wasBad : Option BadReason) : State :=
  (s.atFormatStep (.erase i wasBad)).requestErase { requester := .format, segment := i, attempt := 1 }

/-- R134, step 3: FORMAT takes the segment of an index, or ends after the last one. -/
def State.formatTake (s : State) (i : Nat) : State :=
  if Config.lastJournal < i then s.formatFinish
  else if (s.seg i).state = .erasing then s.formatErase i none
  else
    let wasBad := if (s.seg i).state = .bad then (s.seg i).bad else none
    let s := s.takeForFormat i
    if retirePresent s.array i then s.formatErase i wasBad else s.atFormatStep (.retireSegment i wasBad)

/-- R134, step 2: the reclaim unit's erase exists. -/
def State.reclaimErasing (s : State) : Bool :=
  match s.reclaim with
  | .erasing _ _ _ => true
  | _ => false

/-- R134, steps 2 and 3: FORMAT waits for the reclaim unit's erase, then takes the first segment. -/
def State.formatAwaitReclaim (s : State) : State :=
  if s.reclaimErasing then s.atFormatStep .awaitReclaim else s.formatTake Config.firstJournal

/-- R134: what follows as FORMAT's ring shrinks. -/
def State.formatRing (s : State) : State :=
  if s.segs.ring.isEmpty then s.formatAwaitReclaim else s.atFormatStep .retireRing

/-- R134: an erase has ended that FORMAT waited for. -/
def State.formatEraseEnded (s : State) : State :=
  match s.control.format with
  | .awaitReclaim => s.formatAwaitReclaim
  | .erase i _ => s.formatTake (i + 1)
  | _ => s

/-! ### The configuration program grant (R110) -/

/-- R145, steps 2 and 3: the candidate is programmed, the CRC last, and activated; or the copy write fails. R119, R146,
R148: a candidate that is not whole leaves no valid copy. -/
def Work.programCandidate (w : Work) (kind : OperationKind) (candidate : ConfigRecord) : Work :=
  let target := w.s.store.selector.target
  match w.programHeld (address target 0) candidate.body fun m => (readCopy m target).isNone with
  | (w, false) => w.mod (·.failCopyWrite kind)
  | (w, true) =>
    match w.program (address target candidate.body.length) candidate.check with
    | (w, false) => w.mod (·.failCopyWrite kind)
    | (w, true) =>
      w.mod fun s =>
        let s := s.activateCandidate candidate
        match kind with
        | .commitConfig => s.queueConfigRecord candidate.version
        | .format => { s with store := { s.store with operation := .none } }.formatRing

/-- R134, step 1: RETIRE on the ring head. -/
def Work.formatRetireHead (w : Work) : Work :=
  match w.s.segs.ring with
  | [] => w.mod State.formatRing
  | i :: _ => (w.programRetire i).mod fun s => (s.leaveRing i).formatRing

/-- R133, step 2. -/
def Work.formatSeal (w : Work) : Work := w.sealOpen.mod State.formatCopyWrite

/-- R110: one configuration program grant: the store's request, or the mode controller's for FORMAT. -/
def Work.configGrant (w : Work) : Work :=
  match w.s.store.operation, w.s.store.candidate, w.s.control.format with
  | .copyWrite kind .program, some candidate, _ => w.programCandidate kind candidate
  | _, _, .seal => w.formatSeal
  | _, _, .retireRing => w.formatRetireHead
  | _, _, .retireSegment i wasBad => (w.programRetire i).mod fun s => s.formatErase i wasBad
  | _, _, _ => w

/-- R110: CONFIG_PROGRAM_GRANT. -/
def execConfigProgramGrant (media : List Programmed) (s : State) : Host.Outcome State Fault Refusal :=
  .next (carriedOut .config (fun s => ({ s := s, media := media, cutting := false : Work }.configGrant).s) s)

end Sys2Proof.Machine
end

