-- ==== Sys2Proof/Machine/Mount.lean ====
section
/-! DEFINITION. The mount scan (chapter 9): the configuration, the classes of the segments, the ring, the records, the
counters, and the MOUNT record's entry. -/

namespace Sys2Proof.Machine

/-! ### The configuration (R153) -/

/-- R153: the active configuration and its source. DESIGN CHOICE (log 31): copy 0 of two valid copies with equal versions, of
which R153 says that they never are equal. -/
def loadConfig (m : Memory) : ConfigRecord × Selector :=
  match readCopy m 0, readCopy m 1 with
  | some c0, some c1 => if c0.version < c1.version then (c1, .copy1) else (c0, .copy0)
  | some c0, none => (c0, .copy0)
  | none, some c1 => (c1, .copy1)
  | none, none => (.defaults, .default)

/-! ### The map (R155, R156) -/

/-- R155: the known erase count of a segment that is not DIRTY. -/
def mountedCount (m : Memory) (i : Nat) : Option Nat :=
  if readErased m i = .valid then some (readEraseCount m i) else none

/-- R155, R156: the entry of a ring segment before its records are read. -/
def ringEntry (m : Memory) (i : Nat) (state : SegState) (last : Nat) : SegEntry :=
  { state := state, generation := readGeneration m i, first := readFirst m i, last := last, fill := none
    eraseCount := mountedCount m i, faults := 0, bad := none }

/-- R154 to R156: the map entry of a class. An open candidate is OPEN until it is sealed. -/
def mountedEntry (m : Memory) (i : Nat) : SegClass → SegEntry
  | .bad reason => { SegEntry.unknown with state := .bad, eraseCount := mountedCount m i, bad := some reason }
  | .dirty => .unknown
  | .free => { SegEntry.unknown with state := .free, eraseCount := mountedCount m i }
  | .sealed => ringEntry m i .sealed (readLast m i)
  | .unsealable => ringEntry m i .sealed (readFirst m i - 1)
  | .candidate => ringEntry m i .open (readFirst m i - 1)

/-- Whether a class is a ring segment (R154, rows 6 to 8). -/
def SegClass.inRing : SegClass → Bool
  | .sealed => true
  | .unsealable => true
  | .candidate => true
  | _ => false

/-- The indices of the journal segments (R21). -/
def journalIndices : List Nat := List.range' Config.firstJournal Config.journalCount

/-- R156: a ring segment joins the ring list in ascending order of generation. DEDUCED (log 28): equal generations stand
in the order of their indices. -/
def insertByGeneration (m : Memory) (i : Nat) : List Nat → List Nat
  | [] => [i]
  | j :: rest =>
    if readGeneration m i < readGeneration m j then i :: j :: rest else j :: insertByGeneration m i rest

/-- R156: the ring list. -/
def mountedRing (m : Memory) : List Nat :=
  journalIndices.foldl (fun ring i => if (classify m i).inRing then insertByGeneration m i ring else ring) []

/-- R32, R155: the generation counter. -/
def mountedGeneration (m : Memory) : Nat :=
  nextGeneration
    (journalIndices.foldl (fun g i => if readOpened m i = .valid then max g (readGeneration m i) else g) 0)

/-- R161: the highest mount number of the mount floor and of the valid OPENED groups of the array. -/
def highestOpenedMount (m : Memory) (floor : Nat) : Nat :=
  journalIndices.foldl (fun n i => if readOpened m i = .valid then max n (readOpenedMount m i) else n) floor

/-- R154, R155: the segment manager from the segment headers, with the ring of R156. -/
def mountedSegments (m : Memory) : SegmentManager :=
  let classes := journalIndices.map fun i => (i, classify m i)
  let base : SegmentManager :=
    { map := classes.map fun c => mountedEntry m c.1 c.2
      ring := mountedRing m
      pool := []
      dirty := (classes.filter fun c => (mountedEntry m c.1 c.2).state = .dirty).map Prod.fst
      generation := mountedGeneration m
      usable := (classes.filter fun c => (mountedEntry m c.1 c.2).state ≠ .bad).length }
  { base with
    pool :=
      classes.foldl (fun pool c => if c.2 = .free then base.insertPool c.1 pool else pool) [] }

/-! ### The records (R157 to R160) -/

/-- What the scan has noted of the records read so far. -/
structure Notes where
  /-- R160: the highest sequence number of a readable header or presumed, 0 for none -/
  highest : Nat
  /-- R161: the highest sequence number of a DURABLE record, none before the first -/
  durable : Option Nat
  /-- R161: the highest mount number -/
  mountNumber : Nat
  /-- R158 -/
  torn : Nat
deriving DecidableEq, Repr

/-- What the scan has noted of the segment it is reading (R157, R160). -/
structure SegmentNotes where
  /-- the highest sequence number of a readable header, none before the first -/
  noted : Option Nat
  /-- the highest sequence number of a DURABLE record -/
  durable : Option Nat
deriving DecidableEq, Repr

/-- The scan's work: the array and the state, the notes of all, the notes of this segment. -/
structure Scan where
  work : Work
  notes : Notes
  seg : SegmentNotes

/-- R157: a readable header is noted. -/
def Scan.note (c : Scan) (h : Header) : Scan :=
  { c with
    notes :=
      { c.notes with
        highest := max c.notes.highest h.sequence
        mountNumber := max c.notes.mountNumber h.mountNumber }
    seg := { c.seg with noted := some (max (c.seg.noted.getD 0) h.sequence) } }

/-- R157: a DURABLE record is noted. -/
def Scan.noteDurable (c : Scan) (h : Header) : Scan :=
  let c := c.note h
  { c with
    notes := { c.notes with durable := some (max (c.notes.durable.getD 0) h.sequence) }
    seg := { c.seg with durable := some (max (c.seg.durable.getD 0) h.sequence) } }

/-- R160: the presumed sequence number of an unreadable record. -/
def Scan.notePresumed (c : Scan) (first : Nat) : Scan :=
  let presumed :=
    match c.seg.noted with
    | none => first
    | some n => n + 1
  { c with notes := { c.notes with highest := max c.notes.highest presumed } }

/-- R158: the VOID program on a TORN record. -/
def Scan.voidTorn (c : Scan) (i line : Nat) : Scan :=
  let c := { c with notes := { c.notes with torn := min 65535 (c.notes.torn + 1) } }
  match c.work.program (lineAddress i line + 28) (wordBytes voidPattern) with
  | (w, true) => { c with work := w }
  | (w, false) => { c with work := w.mod fun s => (s.faultSeg i).handAll (.mediaFault i .record) }

/-- R157: the records of a segment from a line on; with the line at which they ended, and whether they ended at a record
that cannot be read. `fuel` bounds the records. -/
def Scan.readRecords (i first : Nat) : Nat → (line : Nat) → Scan → Scan × Nat × Bool
  | 0, line, c => (c, line, false)
  | fuel + 1, line, c =>
    if Config.segmentLines ≤ line then (c, line, false)
    else
      match recordAt c.work.s.array i line with
      | .blank => (c, line, false)
      | .durable h => Scan.readRecords i first fuel (line + extent h.length) (c.noteDurable h)
      | .voided h => Scan.readRecords i first fuel (line + extent h.length) (c.note h)
      | .torn h => Scan.readRecords i first fuel (line + extent h.length) ((c.note h).voidTorn i line)
      | .invalid => (c.notePresumed first, line, true)
      | .voidedUnreadable => (c.notePresumed first, line, true)

/-- R157, R159: whether an open candidate is sealed once its records are read: it is not the newest ring segment, or
its scan ended early. -/
def sealsCandidate (isNewest early : Bool) : Bool := !isNewest || early

/-- R156, R157: the last sequence and the fill that a scan gives an entry. -/
def State.setScanned (s : State) (i last line : Nat) : State :=
  s.modSeg i fun e => { e with last := last, fill := some (line - Config.firstDataLine) }

/-- R152, R156: the finding "open segment sealed early". -/
def State.findSealedEarly (s : State) : State :=
  { s with mount := { s.mount with findings := { s.mount.findings with sealedEarly := true } } }

/-- R156, R157, R159: one ring segment: its records, then what the class that its header was given makes of them, `headers`
being the array whose segment headers the scan has read (R154). The finding "open segment sealed early" is that of the
newest open candidate, whether or not it is the newest ring segment (R156, last row). -/
def Scan.readSegment (headers : Memory) (newest newestCandidate : Option Nat) (c : Scan) (i : Nat) : Scan :=
  let first := (c.work.s.seg i).first
  let r :=
    Scan.readRecords i first Config.segmentLines Config.firstDataLine
      { c with seg := { noted := none, durable := none } }
  let c := r.1
  let last := c.seg.durable.getD (first - 1)
  match classify headers i with
  | .unsealable => { c with work := c.work.mod (·.setScanned i last r.2.1) }
  | .candidate =>
    let w := c.work.mod (·.setScanned i last r.2.1)
    if sealsCandidate (newest = some i) r.2.2 then
      let w := w.seal i last
      { c with work := if newestCandidate = some i && r.2.2 then w.mod State.findSealedEarly else w }
    else { c with work := w }
  | _ => c

/-- R156: the open candidate with the highest generation of a ring. -/
def newestCandidate (m : Memory) (ring : List Nat) : Option Nat :=
  (ring.filter fun i => classify m i = .candidate).getLast?

/-- R157: the ring segments, oldest generation first. -/
def Work.readRing (w : Work) (mountNumber : Nat) : Scan :=
  w.s.segs.ring.foldl
    (Scan.readSegment w.s.array w.s.segs.ring.getLast? (newestCandidate w.s.array w.s.segs.ring))
    { work := w
      notes := { highest := 0, durable := none, mountNumber := mountNumber, torn := 0 }
      seg := { noted := none, durable := none } }

/-! ### The counters and the end of the scan (R160 to R163) -/

/-- R160: the next sequence number. -/
def mountedSequence (highest floor : Nat) : Nat := min Config.exhaustedSequence (max highest (floor - 1) + 1)

/-- R161: the newest durable sequence number. -/
def mountedDurable (durable : Option Nat) (floor : Nat) : Nat := durable.getD (floor - 1)

/-- R14, R161: the mount number. -/
def mountedNumber (highest : Nat) : Nat := min Config.lastMountNumber (highest + 1)

/-- R153 to R156, R161: what the scan knows before it reads records. -/
def State.mountHeaders (s : State) : State :=
  let config := loadConfig s.array
  { s with
    store := { s.store with active := config.1, selector := config.2 }
    segs := mountedSegments s.array
    mount := { s.mount with findings := { Findings.discarded with source := config.2 } } }

/-- R160, R161: the counters and the findings from the notes of the scan. -/
def State.mountCounters (s : State) (notes : Notes) : State :=
  let number := mountedNumber notes.mountNumber
  { s with
    writer :=
      { s.writer with
        nextSequence := mountedSequence notes.highest s.store.active.sequenceFloor
        newestDurable := mountedDurable notes.durable s.store.active.sequenceFloor }
    mount :=
      { s.mount with
        number := number
        findings :=
          { s.mount.findings with
            mountNumber := number
            torn := notes.torn
            dirty := s.segs.dirty.length
            bad := Config.journalCount - s.segs.usable
            service := s.segs.usable } } }

/-- R162: the MOUNT record's entry. -/
def State.mountEntry (s : State) : Entry := systemEntry .mount (mountPayload s.mount.findings)

/-- R162, R163: the scan's end: the MOUNT entry is placed, or mount is complete at once. -/
def State.endScan (s : State) : State :=
  if !s.exhausted && (s.fits s.mountEntry || 1 ≤ s.segs.pool.length) then
    { s with mount := { s.mount with phase := .recording } }.joinQueue s.mountEntry
  else s.completeMount

/-- R154: the mount scan, in its one grant of the array. -/
def Work.mountScan (w : Work) : Work :=
  let w := w.mod State.mountHeaders
  let c := w.readRing (highestOpenedMount w.s.array w.s.store.active.mountFloor)
  c.work.mod fun s => (s.mountCounters c.notes).endScan

/-- R154: MOUNT_SCAN, the operation of the scan's grant. -/
def execMountScan (media : List Programmed) (s : State) : Host.Outcome State Fault Refusal :=
  .next (carriedOut .mountScan (fun s => ({ s := s, media := media, cutting := false : Work }.mountScan).s) s)

end Sys2Proof.Machine
end

