-- ==== Sys2Proof/Machine/Reclaim.lean ====
section
/-! DEFINITION. The operation of a retire grant (R96 to R98) and its end (R113), and the erase of a segment: started, suspended, resumed and
carried to its end (R99, R100, R114 to R116). -/

namespace Sys2Proof.Machine

/-! ### The retire grant -/

/-- R94, R97, R98: the target is recorded. -/
def State.setTarget (s : State) (i : Nat) (source : TargetSource) : State :=
  { s with reclaim := .erasing i source 1 }

/-- R97, R98: the RETIRE program of the target. A DIRTY segment whose RETIRE word already differs from the erased value is
programmed nothing. -/
def Work.markTarget (w : Work) (t : Target) : Work :=
  match t.source with
  | .ring => w.programRetire t.segment
  | .dirty => if retirePresent w.s.array t.segment then w else w.programRetire t.segment

/-- R96 to R98: what a retire grant does before its end: R95's conditions 1 to 4 are examined again and the target is
chosen, and then in this order come its RETIRE program, its leaving of the ring or the dirty list with what follows, and the
record of it; or nothing. DEDUCED (log 12): a command taken before the event stands between request and grant and is taken
into account, and one taken after it meets the new B. -/
def Work.retire (w : Work) : Work :=
  match w.s.chooseTarget with
  | none => w.mod State.chooseNothing
  | some t => (w.markTarget t).mod fun s => (s.takeTarget t).setTarget t.segment t.source

/-- R97, step 4; R98, R99, R113: at the end of a retire grant that has a target its erase is requested. -/
def State.requestTarget (s : State) : State :=
  match s.reclaim with
  | .erasing i _ attempt => s.requestErase { requester := .reclaim, segment := i, attempt := attempt }
  | _ => s

/-- R110, R113: a retire grant that has a target holds the array on, or it ends, with the request of the erase, and the
array is free. One that has chosen nothing ends at once. DEDUCED (log 12): `holds` says whether commands arrive before the
end. -/
def State.retireEnd (holds : Bool) (s : State) : State :=
  if holds && s.reclaimErasing then s.hold .retiring else (s.requestTarget).settle

/-- R96, R113: the grant of the retire request, and its end. -/
def retireGrant (media : GrantMedia) (s : State) : State :=
  if s.inReset then s
  else
    match s.seq.grant with
    | .retire => ({ s := s.hold .none, media := media.answers, cutting := false : Work }.retire).s.retireEnd media.holds
    | .retiring => (s.hold .none).retireEnd media.holds
    | _ => s

/-- R96: RETIRE_GRANT. -/
def execRetireGrant (media : GrantMedia) (s : State) : Host.Outcome State Fault Refusal :=
  .next (retireGrant media s)

/-! ### Erases -/

/-- R114: ERASE_START. -/
def execEraseStart (s : State) : Host.Outcome State Fault Refusal := .next (carriedOut .start State.activateErase s)

/-- R112, R115: the slice of the ACTIVE head erase has run. A slice with time left does not elapse (log 9). -/
def State.sliceElapsed (s : State) : State :=
  if s.inReset || !s.eraseActive || s.seq.slice ≠ .running 0 then s
  else { s with seq := { s.seq with slice := .elapsed } }.settle

/-- R112: ERASE_SLICE_ELAPSED. -/
def execEraseSliceElapsed (s : State) : Host.Outcome State Fault Refusal := .next s.sliceElapsed

/-- R115: ERASE_RESUME. -/
def execEraseResume (s : State) : Host.Outcome State Fault Refusal := .next (carriedOut .resume State.activateErase s)

/-- The ACTIVE head erase. -/
def State.activeErase (s : State) : Option Erase :=
  if s.eraseActive && !s.inReset then s.seq.erases.head? else none

/-- R40, R134: why the segment of an erase was BAD, if FORMAT took it from BAD. -/
def State.wasBad (s : State) (e : Erase) : Option BadReason :=
  match e.requester, s.control.format with
  | .format, .erase _ reason => reason
  | _, _ => none

/-- R28, R116, step 2: the ERASED group of a segment whose erase verified; its count is then known. -/
def Work.programErased (w : Work) (i : Nat) : Work × Bool :=
  let count := w.s.newEraseCount i
  match w.program (address i erasedOffset) (erasedGroup count) with
  | (w, true) => (w.mod fun s => s.modSeg i fun e => { e with eraseCount := some count }, true)
  | (w, false) => (w, false)

/-- R99, R116, step 1: the second attempt, as the same erase, with a full slice. -/
def State.secondAttempt (s : State) (e : Erase) : State :=
  { s with
    reclaim :=
      match e.requester, s.reclaim with
      | .reclaim, .erasing i source _ => .erasing i source 2
      | _, r => r
    seq :=
      { s.seq with
        erases := { e with attempt := 2 } :: s.seq.erases.tail
        slice := s.fullSlice } }

/-- R100: the reclaim unit drops its target as its erase ends. -/
def State.dropTarget (s : State) (e : Erase) : State :=
  if e.requester = .reclaim then { s with reclaim := .idle } else s

/-- R41: a fall of the usable count below 8, from `before`, freezes the part. DEDUCED (log 23): a further fall below 8
adds no cause. -/
def State.reportUsable (s : State) (before : Nat) : State :=
  if Config.leastUsable ≤ before && s.segs.usable < Config.leastUsable then s.enterFrozen .media else s

/-- R30, R100, R103: the writer is told that the free count has risen, or decides the pressure afresh as the reclaim
unit is back in IDLE. -/
def State.reportFree (s : State) (before : Nat) : State :=
  if before < s.segs.pool.length then s.freeCountRose else s.redecidePressure

/-- R100, R116, steps 3 and 4: the erase of a journal segment has its outcome. -/
def Work.eraseOutcome (w : Work) (e : Erase) (succeeded : Bool) : Work :=
  let usable := w.s.segs.usable
  let free := w.s.segs.pool.length
  (w.setOutcome e.segment succeeded (w.s.wasBad e)).mod fun s =>
    ((((s.endErase).dropTarget e).reportUsable usable).reportFree free).formatEraseEnded

/-- R99, R116: the end of an attempt on a journal segment. -/
def Work.journalAttemptEnd (w : Work) (e : Erase) : Work :=
  let r := if w.s.array.segmentBlank e.segment then w.programErased e.segment else (w, false)
  if !r.2 && e.attempt = 1 && (r.1.s.wasBad e).isNone then r.1.mod (·.secondAttempt e)
  else r.1.eraseOutcome e r.2

/-- R145, step 1; R146: the end of the one attempt on a copy segment. -/
def State.copyErased (s : State) (verified : Bool) : State :=
  match s.store.operation with
  | .copyWrite kind _ =>
    if verified then { s with store := { s.store with operation := .copyWrite kind .program } }
    else s.failCopyWrite kind
  | .none => s

/-- R116: the array has carried an erase to its end, with the result the array gives. -/
def Work.attemptEnd (w : Work) (e : Erase) (result : Erased) : Work :=
  let w := w.mod fun s => { s with array := s.array.endErase e.segment result }
  match e.requester with
  | .store => w.mod fun s => (s.endErase).copyErased (s.array.segmentBlank e.segment)
  | _ => w.journalAttemptEnd e

/-- R116. -/
def eraseAttemptEnd (result : Erased) (media : List Programmed) (s : State) : State :=
  match s.activeErase with
  | none => s
  | some e => ({ s := s, media := media, cutting := false : Work }.attemptEnd e result).s.settle

/-- R116: ERASE_ATTEMPT_END. -/
def execEraseAttemptEnd (result : Erased) (media : List Programmed) (s : State) :
    Host.Outcome State Fault Refusal :=
  .next (eraseAttemptEnd result media s)

end Sys2Proof.Machine
end

