-- ==== Sys2Proof/Machine/Reset.lean ====
section
/-! DEFINITION. The reset events (R151): what a reset stops in the array (R61, R119), and the end of a reset. -/

namespace Sys2Proof.Machine

/-- R119: the segment of a head erase that has begun, ACTIVE or SUSPENDED. -/
def State.begunErase (s : State) : Option Nat :=
  match s.seq.erases, s.seq.head with
  | e :: _, .active => some e.segment
  | e :: _, .suspended => some e.segment
  | _, _ => none

/-- R119: the array where a head erase that has begun is stopped, with the bytes of its segment that the event gives, none
when the array had not yet changed them. -/
def State.leftByErase (s : State) (m : Memory) (left : Option Erased) : Memory :=
  match s.begunErase with
  | none => m
  | some segment =>
    match left with
    | none => m.stopErase segment
    | some bytes => (m.eraseSegment segment bytes).stopErase segment

/-- R61, R119: the array where the operation of a requester that holds it stops. -/
def State.cutGrant (s : State) (operation : Work → Work) (media : List Programmed) : Memory :=
  (operation { s := s.hold .none, media := media, cutting := true }).s.array

/-- R119: the array where the end of an erase's attempt stops: before the second attempt, which has then begun; with the
ERASED group of a verified erase whole; or with an erase that has come to nothing. -/
def State.cutAttemptEnd (s : State) (e : Erase) (result : Erased) (media : List Programmed) : Memory :=
  let after := ({ s := s, media := media, cutting := true : Work }.attemptEnd e result).s
  if after.begunErase = some e.segment then after.array.stopErase e.segment
  else if after.array.readBytes (address e.segment erasedOffset) 10 = erasedGroup (s.newEraseCount e.segment) then
    after.array
  else after.array.leaveUnfinished e.segment SegClass.outOfUse

/-- R61, R119, R136, R148: the array as a reset leaves it. DEDUCED (log 8): what the stopped operation had done is carried
by the event. An operation that does not hold the array has done nothing; a head erase that has begun is stopped with
whatever is stopped. A retire grant that holds the array on has
made its programs. DESIGN CHOICE (log 35): a stopped write-out of the FORMAT record has not come past its OPENED
program. -/
def State.arrayAfterCut (s : State) : Cut → Memory
  | .idle left => s.leftByErase s.array left
  | .scan media =>
    match s.seq.grant with
    | .mountScan => s.leftByErase (s.cutGrant Work.mountScan media) none
    | _ => s.leftByErase s.array none
  | .append media left =>
    match s.seq.grant with
    | .append => s.leftByErase (s.cutGrant Work.appendGrant media) left
    | _ => s.leftByErase s.array none
  | .retire media =>
    match s.seq.grant with
    | .retire => s.leftByErase (s.cutGrant Work.retire media) none
    | _ => s.leftByErase s.array none
  | .config media left =>
    match s.seq.grant with
    | .config => s.leftByErase (s.cutGrant Work.configGrant media) left
    | _ => s.leftByErase s.array none
  | .eraseEnd result media =>
    match s.activeErase with
    | none => s.leftByErase s.array none
    | some e => s.cutAttemptEnd e result media

/-- R151: a reset event begins. A part already in reset stays in it. -/
def resetAsserted (cut : Cut) (s : State) : State :=
  if s.inReset then s else { s with array := s.arrayAfterCut cut, inReset := true }

/-- R151: RESET_ASSERTED. -/
def execResetAsserted (cut : Cut) (s : State) : Host.Outcome State Fault Refusal := .next (resetAsserted cut s)

/-- R151: the end of a reset. The queue of commands is the model's own and is kept. -/
def resetReleased (s : State) : State :=
  if s.inReset then { State.afterReset s.array with pending := s.pending } else s

/-- R151: RESET_RELEASED. -/
def execResetReleased (s : State) : Host.Outcome State Fault Refusal := .next (resetReleased s)

end Sys2Proof.Machine
end

