-- ==== Sys2Proof/Machine/Service.lean ====
section
/-! DEFINITION. The service claim (R125, R129), FORMAT as a command (R132, R133) and the configuration commands
(chapter 8). -/

namespace Sys2Proof.Machine

/-! ### The claim -/

/-- R125. -/
def claimRefusal (p : Port) (s : State) : Option Code :=
  firstHolding
    [(s.control.mode = .mounting, .wrongMode),
      (s.control.claimant.isSome, .busy),
      (!s.store.active.rights.has p || (s.port p).lease = 0, .noRight),
      (!s.slotFree p, .noSlot)]

/-- R125, R127: the part enters SERVICE at once when the writer is IDLE, else the drain begins. -/
def State.beginClaim (s : State) : State :=
  if s.writer.state = .idle then (s.changeMode .service .claimed).activateClaim
  else
    let s := { s with control := { s.control with phase := .draining } }
    if s.control.mode = .frozen then s else s.changeMode .draining .claimed

/-- R125: the accepted claim, before the mode is looked at. -/
def State.recordClaim (s : State) (p : Port) (tag : Byte) : State :=
  let s := s.reserveSlot p
  { s with
    control := { s.control with claimant := some p, request := some { tag := tag, report := true } } }.handAll
      (.serviceClaim p true)

/-- R125. -/
def claimService (p : Port) (tag : Byte) (s : State) : Reply :=
  match claimRefusal p s with
  | some code => .refuse s code
  | none => { state := ((s.recordClaim p tag).beginClaim).settle, code := .queued, result := [] }

/-- R125: CLAIM SERVICE. -/
def execClaimService (p : Port) (tag : Byte) (s : State) : Host.Outcome State Fault Refusal :=
  .next (hostFrame p .needed .claimService (claimService p tag) s)

/-- R129. -/
def releaseRefusal (p : Port) (s : State) : Option Code :=
  firstHolding
    [(s.control.claimant.isNone || s.control.phase = .ending, .wrongMode),
      (s.control.claimant ≠ some p, .noRight),
      (s.control.operation.isSome, .busy)]

/-- R129: a release in phase DRAINING cancels the claim request. -/
def State.cancelClaimRequest (s : State) (p : Port) : State :=
  match s.control.phase, s.control.request with
  | .draining, some r => if r.report then s.post p (bareCompletion .claimService r.tag .cancelled) else s
  | _, _ => s

/-- R129. -/
def releaseService (p : Port) (s : State) : Reply :=
  match releaseRefusal p s with
  | some code => .refuse s code
  | none => { state := ((s.cancelClaimRequest p).endClaim).settle, code := .ok, result := [] }

/-- R129: RELEASE SERVICE. -/
def execReleaseService (p : Port) (s : State) : Host.Outcome State Fault Refusal :=
  .next (hostFrame p .needed .releaseService (releaseService p) s)

/-- R128: the checks that come first for a service command. -/
def serviceChecks (p : Port) (s : State) : List (Bool × Code) :=
  [(s.control.claimant.isNone || s.control.phase = .ending, .wrongMode),
    (s.control.claimant ≠ some p, .noRight),
    (s.control.phase = .draining, .wrongMode)]

/-- R121, R132, R144: the service operation is recorded, with its completion slot. -/
def State.beginOperation (s : State) (p : Port) (kind : OperationKind) (tag : Byte) : State :=
  let s := s.reserveSlot p
  { s with control := { s.control with operation := some { kind := kind, tag := tag, report := true } } }

/-! ### FORMAT -/

/-- R128, R132. -/
def formatRefusal (p : Port) (s : State) : Option Code :=
  firstHolding
    (serviceChecks p s ++
      [(s.store.lock, .locked),
        (s.control.frozen.sequence, .wrongMode),
        (s.control.operation.isSome || !s.writer.queue.isEmpty, .busy),
        (!s.slotFree p, .noSlot)])

/-- R91: one cursor closed by FORMAT. -/
def State.formatCloseCursor (s : State) (id : Nat) : State :=
  match s.cursor id with
  | none => s
  | some c => (s.closeSlot id c).hand c.owner (.cursorClosed id)

/-- R91: FORMAT closes every cursor, in id order, and the reclaim unit is told (R76). -/
def State.formatCloseCursors (s : State) : State :=
  (cursorIds.foldl State.formatCloseCursor s).floorChanged

/-- R133, step 2: the OPEN segment is sealed first, in a grant of its own. -/
def State.beginFormat (s : State) : State :=
  match s.openSegment with
  | some _ => s.atFormatStep .seal
  | none => s.formatCopyWrite

/-- R132, R133. -/
def format (p : Port) (tag : Byte) (s : State) : Reply :=
  match formatRefusal p s with
  | some code => .refuse s code
  | none =>
    { state := (((s.beginOperation p .format tag).formatCloseCursors).beginFormat).settle
      code := .queued
      result := [] }

/-- R132: FORMAT. -/
def execFormat (p : Port) (tag : Byte) (s : State) : Host.Outcome State Fault Refusal :=
  .next (hostFrame p .needed .service (format p tag) s)

/-! ### Configuration commands -/

/-- R141, R191: the record, the copy selector and the lock. -/
def ConfigStore.answer (c : ConfigStore) (r : ConfigRecord) : List Byte :=
  r.bytes ++ [c.selector.byte, yesNo c.lock]

/-- R141. -/
def readConfig (which : Byte) (s : State) : Reply :=
  match whichConfigOf which with
  | none => .refuse s .badValue
  | some .active => { state := s, code := .ok, result := s.store.answer s.store.active }
  | some .pendingCfg =>
    match s.store.pendingCfg with
    | none => .refuse s .wrongMode
    | some r => { state := s, code := .ok, result := s.store.answer r }

/-- R141: READ CONFIG. -/
def execReadConfig (p : Port) (which : Byte) (s : State) : Host.Outcome State Fault Refusal :=
  .next (hostFrame p .needed .other (readConfig which) s)

/-- R128, R142: the checks of an edit command, before its operands'. -/
def editRefusal (p : Port) (s : State) : Option Code :=
  firstHolding (serviceChecks p s ++ [(s.store.lock, .locked), (s.control.operation.isSome, .busy)])

/-- R142: an accepted edit of the pending configuration. -/
def State.editPending (s : State) (f : ConfigRecord → ConfigRecord) : State :=
  { s with store := { s.store with pendingCfg := s.store.pendingCfg.map f } }

/-- R142: an edit command: its checks, then its operands, then its edit. -/
def edit (p : Port) (operands : Except Code (ConfigRecord → ConfigRecord)) (s : State) : Reply :=
  match editRefusal p s, operands with
  | some code, _ => .refuse s code
  | none, .error code => .refuse s code
  | none, .ok f => { state := s.editPending f, code := .ok, result := [] }

/-- R142: one stream table entry replaced. -/
def ConfigRecord.withStream (r : ConfigRecord) (n : Nat) (e : StreamEntry) : ConfigRecord :=
  { r with streams := r.streams.set n e }

/-- R142: the operands of EDIT STREAM. The stream is looked at first (log 16). -/
def editStreamOperands (stream writers closed : Byte) : Except Code (ConfigRecord → ConfigRecord) :=
  if stream.toNat < 1 || 15 < stream.toNat then .error .badStream
  else
    match portSetOf writers, closedOf closed with
    | some w, some c => .ok (·.withStream stream.toNat { writers := w, closed := c })
    | _, _ => .error .badValue

/-- R142: EDIT STREAM. -/
def execEditStream (p : Port) (stream writers closed : Byte) (s : State) : Host.Outcome State Fault Refusal :=
  .next (hostFrame p .needed .service (edit p (editStreamOperands stream writers closed)) s)

/-- R143: the operand of EDIT RIGHTS. -/
def editRightsOperand (rights : Byte) : Except Code (ConfigRecord → ConfigRecord) :=
  match portSetOf rights with
  | none => .error .badValue
  | some r => if r.isEmpty then .error .badValue else .ok fun c => { c with rights := r }

/-- R143: EDIT RIGHTS. -/
def execEditRights (p : Port) (rights : Byte) (s : State) : Host.Outcome State Fault Refusal :=
  .next (hostFrame p .needed .service (edit p (editRightsOperand rights)) s)

/-- R143: the operands of EDIT POLICY. -/
def editPolicyOperands (policy hold target slice : Byte) : Except Code (ConfigRecord → ConfigRecord) :=
  match policyOf policy with
  | none => .error .badValue
  | some policy =>
    if 1 ≤ hold.toNat && 2 ≤ target.toNat && target.toNat ≤ 8 && 1 ≤ slice.toNat && slice.toNat ≤ 16 then
      .ok fun c =>
        { c with policy := policy, holdLimit := hold.toNat, freeTarget := target.toNat, eraseSlice := slice.toNat }
    else .error .badValue

/-- R143: EDIT POLICY. -/
def execEditPolicy (p : Port) (policy hold target slice : Byte) (s : State) : Host.Outcome State Fault Refusal :=
  .next (hostFrame p .needed .service (edit p (editPolicyOperands policy hold target slice)) s)

/-- R128, R144. -/
def commitConfigRefusal (p : Port) (s : State) : Option Code :=
  firstHolding
    (serviceChecks p s ++
      [(s.store.lock, .locked),
        (s.control.operation.isSome, .busy),
        (s.store.active.version = Config.lastVersion, .badValue),
        (!s.slotFree p, .noSlot)])

/-- R144: the candidate built from a pending configuration. -/
def State.commitCandidate (s : State) (r : ConfigRecord) : ConfigRecord :=
  { r.carry s.store.active with version := s.store.active.version + 1 }

/-- R144: the pending configuration; in phase ACTIVE there is one (R137). -/
def ConfigStore.pendingOrActive (c : ConfigStore) : ConfigRecord := c.pendingCfg.getD c.active

/-- R144. -/
def commitConfig (p : Port) (tag : Byte) (s : State) : Reply :=
  match commitConfigRefusal p s with
  | some code => .refuse s code
  | none =>
    { state :=
        ((s.beginOperation p .commitConfig tag).startCopyWrite .commitConfig
          (s.commitCandidate s.store.pendingOrActive)).settle
      code := .queued
      result := [] }

/-- R144: COMMIT CONFIG. -/
def execCommitConfig (p : Port) (tag : Byte) (s : State) : Host.Outcome State Fault Refusal :=
  .next (hostFrame p .needed .service (commitConfig p tag) s)

/-- R150. -/
def lockConfig (p : Port) (s : State) : Reply :=
  if s.store.active.rights.has p then
    { state := { s with store := { s.store with lock := true } }, code := .ok, result := [] }
  else .refuse s .noRight

/-- R150: LOCK CONFIG. -/
def execLockConfig (p : Port) (s : State) : Host.Outcome State Fault Refusal :=
  .next (hostFrame p .needed .other (lockConfig p) s)

end Sys2Proof.Machine
end

