-- ==== Sys2Proof/Machine/Time.lean ====
section
/-! DEFINITION. The events of time: lease expiry (R182), hold timer expiry (R105), wait deadlines (R84) and the tick
(R15). A tick brings the times left down; each expiry is an event of its own, which finds its time run out (log 9,
log 10). -/

namespace Sys2Proof.Machine

/-- R182: a port's lease timer expires when the whole lease has passed with no frame taken. A timer with time left, or one
that does not run, does not expire. -/
def leaseExpiry (p : Port) (s : State) : State :=
  if s.inReset || !(s.port p).attached || (s.port p).leaseTimer ≠ some 0 then s else s.depart p true

/-- R182: LEASE_EXPIRY. -/
def execLeaseExpiry (p : Port) (s : State) : Host.Outcome State Fault Refusal := .next (leaseExpiry p s)

/-- R103, R105: the blocked DATA head leaves FULL and the next one is examined. A system head is never completed FULL
(R57, R108). -/
def State.holdExpired (s : State) : State :=
  let s := { s with writer := { s.writer with holdTimer := none } }
  match s.writer.queue with
  | [] => s
  | e :: _ => if e.kind = .data then (s.leaveHead e .full none).examineHead else s

/-- R105: the hold timer expires. A timer with time left, or one that does not run, does not expire. -/
def holdTimerExpiry (s : State) : State :=
  if s.inReset || s.writer.holdTimer ≠ some 0 || s.writer.state ≠ .waiting then s else s.holdExpired.settle

/-- R105: HOLD_TIMER_EXPIRY. -/
def execHoldTimerExpiry (s : State) : Host.Outcome State Fault Refusal := .next (holdTimerExpiry s)

/-- R84: the deadline of a WAITING cursor passes when no time of it is left. For a FETCHING cursor the passing does
nothing; its fetch finds the deadline passed. -/
def State.deadlinePassed (s : State) (id : Nat) (c : Cursor) : State :=
  match c.state with
  | .waiting r => if r.deadline = some 0 then (s.setCursor id (some { c with state := .idle })).completeEnd c r else s
  | _ => s

/-- R84: the deadline of the cursor in a slot passes; an empty slot has none. -/
def waitDeadline (id : Nat) (s : State) : State :=
  if s.inReset then s
  else
    match s.cursor id with
    | none => s
    | some c => s.deadlinePassed id c

/-- R84: WAIT_DEADLINE. -/
def execWaitDeadline (id : Nat) (s : State) : Host.Outcome State Fault Refusal := .next (waitDeadline id s)

/-- A time left, one millisecond later. -/
def oneLess (left : Option Nat) : Option Nat := left.map (· - 1)

/-- One millisecond of a request's deadline. -/
def Request.tick (r : Request) : Request := { r with deadline := oneLess r.deadline }

/-- One millisecond of a cursor's deadline. -/
def Cursor.tick (c : Cursor) : Cursor :=
  { c with
    state :=
      match c.state with
      | .idle => .idle
      | .fetching r => .fetching r.tick
      | .waiting r => .waiting r.tick }

/-- One millisecond of a lease timer. -/
def PortUnit.tick (u : PortUnit) : PortUnit := { u with leaseTimer := oneLess u.leaseTimer }

/-- One millisecond of the progress slice. -/
def Slice.tick : Slice → Slice
  | .running left => .running (left - 1)
  | other => other

/-- R15: the tick counter, which does not count until the mount scan has finished. -/
def State.nextTick (s : State) : BitVec 32 := if s.mount.phase = .scanning then s.tick else s.tick + 1

/-- R15, R84, R105, R114, R182: a millisecond passes. -/
def tickCounterAdvance (s : State) : State :=
  if s.inReset then s
  else
    let s := s.mapCursors Cursor.tick
    { s with
      tick := s.nextTick
      portA := s.portA.tick
      portB := s.portB.tick
      portC := s.portC.tick
      writer := { s.writer with holdTimer := oneLess s.writer.holdTimer }
      seq := { s.seq with slice := s.seq.slice.tick } }

/-- R15: TICK_COUNTER_ADVANCE. -/
def execTickCounterAdvance (s : State) : Host.Outcome State Fault Refusal := .next (tickCounterAdvance s)

end Sys2Proof.Machine
end

