-- ==== Sys2Proof/Machine/Dispatch.lean ====
section
/-! DEFINITION. One arm per command: its meaning. -/

namespace Sys2Proof.Machine

def exec (i : Instr) (s : State) : Host.Outcome State Fault Refusal :=
  match i with
  | .readStatus port => Sys2Proof.Machine.execReadStatus port s
  | .attach port lease mask => Sys2Proof.Machine.execAttach port lease mask s
  | .detach port => Sys2Proof.Machine.execDetach port s
  | .readClock port => Sys2Proof.Machine.execReadClock port s
  | .queryJournal port => Sys2Proof.Machine.execQueryJournal port s
  | .querySegment port index => Sys2Proof.Machine.execQuerySegment port index s
  | .beginRecord port buffer stream length => Sys2Proof.Machine.execBeginRecord port buffer stream length s
  | .load port buffer offset bytes => Sys2Proof.Machine.execLoad port buffer offset bytes s
  | .abandon port buffer => Sys2Proof.Machine.execAbandon port buffer s
  | .commit port buffer tag => Sys2Proof.Machine.execCommit port buffer tag s
  | .openCursor port filter start mode => Sys2Proof.Machine.execOpenCursor port filter start mode s
  | .closeCursor port id => Sys2Proof.Machine.execCloseCursor port id s
  | .seek port id position => Sys2Proof.Machine.execSeek port id position s
  | .ack port id position => Sys2Proof.Machine.execAck port id position s
  | .rewind port id => Sys2Proof.Machine.execRewind port id s
  | .setCursorMode port id mode => Sys2Proof.Machine.execSetCursorMode port id mode s
  | .queryCursor port id => Sys2Proof.Machine.execQueryCursor port id s
  | .readNext port id tag wait => Sys2Proof.Machine.execReadNext port id tag wait s
  | .readWindow port offset count => Sys2Proof.Machine.execReadWindow port offset count s
  | .takeCompletion port which => Sys2Proof.Machine.execTakeCompletion port which s
  | .takeNotice port which => Sys2Proof.Machine.execTakeNotice port which s
  | .claimService port tag => Sys2Proof.Machine.execClaimService port tag s
  | .releaseService port => Sys2Proof.Machine.execReleaseService port s
  | .format port tag => Sys2Proof.Machine.execFormat port tag s
  | .readConfig port which => Sys2Proof.Machine.execReadConfig port which s
  | .editStream port stream writers closed => Sys2Proof.Machine.execEditStream port stream writers closed s
  | .editRights port rights => Sys2Proof.Machine.execEditRights port rights s
  | .editPolicy port policy hold target slice => Sys2Proof.Machine.execEditPolicy port policy hold target slice s
  | .commitConfig port tag => Sys2Proof.Machine.execCommitConfig port tag s
  | .lockConfig port => Sys2Proof.Machine.execLockConfig port s
  | .frameError port cause => Sys2Proof.Machine.execFrameError port cause s
  | .resetAsserted cut => Sys2Proof.Machine.execResetAsserted cut s
  | .resetReleased => Sys2Proof.Machine.execResetReleased s
  | .mountScan media => Sys2Proof.Machine.execMountScan media s
  | .appendWriteOut media => Sys2Proof.Machine.execAppendWriteOut media s
  | .fetchGrant port => Sys2Proof.Machine.execFetchGrant port s
  | .retireGrant media => Sys2Proof.Machine.execRetireGrant media s
  | .configProgramGrant media => Sys2Proof.Machine.execConfigProgramGrant media s
  | .eraseStart => Sys2Proof.Machine.execEraseStart s
  | .eraseSliceElapsed => Sys2Proof.Machine.execEraseSliceElapsed s
  | .eraseResume => Sys2Proof.Machine.execEraseResume s
  | .eraseAttemptEnd result media => Sys2Proof.Machine.execEraseAttemptEnd result media s
  | .leaseExpiry port => Sys2Proof.Machine.execLeaseExpiry port s
  | .holdTimerExpiry => Sys2Proof.Machine.execHoldTimerExpiry s
  | .waitDeadline cursor => Sys2Proof.Machine.execWaitDeadline cursor s
  | .tickCounterAdvance => Sys2Proof.Machine.execTickCounterAdvance s

end Sys2Proof.Machine
end

