-- ==== Sys2Proof/Machine/Step.lean ====
section
/-! DEFINITION. One step: the command at the front of the queue (log 13). -/

namespace Sys2Proof.Machine

/-- The state with the given queue of waiting commands. -/
def State.withPending (s : State) (pending : List Instr) : State := { s with pending := pending }

/-- The command at the front of the queue is carried out, with the rest of the queue behind it. On an empty queue the
part idles (log 13). -/
def step (s : State) : Host.Outcome State Fault Refusal :=
  match s.pending with
  | [] => .next s
  | i :: rest => exec i (s.withPending rest)

/-- The state with the command that a word of the table spells put at the front of the queue; unchanged where the
word spells none (log 24). -/
def State.withFetchWord (s : State) (nbits w : Nat) : State :=
  match decodeTableWord nbits w with
  | none => s
  | some i => s.withPending (i :: s.pending)

end Sys2Proof.Machine
end

