-- ==== Sys2Proof/Safety.lean ====
section
/-! DEFINITION. What claims are stated in: a frame taken and answered with nothing else changed, the invariants of a
well-kept part, and what the operations of the array find. -/

namespace Sys2Proof.Machine

/-- R177 to R179: the part after a frame on a port has been taken and answered, and nothing else: the status byte as it
stood has been shifted out, the rejected indication is clear, the lease timer of an attached port with a lease is full
again, the response has been shifted out and select released. -/
def State.answered (s : State) (p : Port) (code : Code) (result : List Byte) : State :=
  s.modPort p fun u =>
    { u with
      statusOut := s.statusByte p
      link := .idle
      lastRejected := false
      leaseTimer := if u.attached && u.lease ≠ 0 then some (100 * u.lease.toNat) else u.leaseTimer
      response := some { code := code, result := result } }

/-- R151, R179, R124: a port outside reset is attached, and the mode gate lets a command of a class pass. -/
def State.admits (s : State) (p : Port) (cls : CommandClass) : Prop :=
  s.inReset = false ∧ (s.port p).attached = true ∧ s.modeGate p cls = none

/-- Every port of `t` is as it was in `s`, but for its completion unit. -/
def State.PortsButLists (s t : State) : Prop := ∀ p, t.port p = { s.port p with lists := (t.port p).lists }

/-- The array's listing is canonical (log 1). -/
def State.ArrayOk (s : State) : Prop := s.array.wf = true

/-- R165, R167, R171: the bounds of a completion unit. -/
def CompletionUnit.Ok (u : CompletionUnit) : Prop :=
  u.queue.length + u.reserved ≤ Config.completionSlots ∧ u.notices.length ≤ Config.noticePlaces ∧ u.lost ≤ 255 ∧
    (0 < u.lost → u.notices ≠ [])

/-- R165: the bounds of every port's completion unit. -/
def State.ListsOk (s : State) : Prop := ∀ p, (s.port p).lists.Ok

/-- R174, R182: a DETACHED port has nothing waiting, nothing reserved and no lease timer. -/
def PortUnit.DetachedOk (u : PortUnit) : Prop :=
  u.attached = false → u.lists = .cleared ∧ u.leaseTimer = none

/-- R174 for every port. -/
def State.DetachedOk (s : State) : Prop := ∀ p, (s.port p).DetachedOk

/-- R68, R69: a cursor's acknowledged position is no greater than its delivered position, and its overrun count has not
passed 255. -/
def Cursor.Ok (c : Cursor) : Prop := c.acked ≤ c.delivered ∧ c.overrun ≤ 255

/-- R68, R69: the table has 12 slots, and every cursor in it is in order. -/
def State.CursorsOk (s : State) : Prop :=
  s.cursors.table.length = 12 ∧ ∀ slot ∈ s.cursors.table, ∀ c, slot = some c → c.Ok

/-- R109: the consecutive fetch count lies from 0 to 4. -/
def State.FetchCountOk (s : State) : Prop := s.seq.fetchCount ≤ Config.fetchLimit

/-- R138: every field of a configuration record lies in its range: 16 stream entries, none writing stream 0, service
rights that are not empty, the policy values, the version, the floors and the format count. -/
def ConfigRecord.Ok (r : ConfigRecord) : Prop :=
  r.streams.length = 16 ∧ r.stream 0 = { writers := { a := false, b := false, c := false }, closed := false } ∧
    r.rights.isEmpty = false ∧ (1 ≤ r.holdLimit ∧ r.holdLimit ≤ 255) ∧ (2 ≤ r.freeTarget ∧ r.freeTarget ≤ 8) ∧
    (1 ≤ r.eraseSlice ∧ r.eraseSlice ≤ 16) ∧ r.version < 4294967296 ∧
    (1 ≤ r.sequenceFloor ∧ r.sequenceFloor < 281474976710656) ∧ r.mountFloor < 65536 ∧ r.formatCount < 65536

/-- R138 for the active, the pending and the candidate configuration. -/
def State.ConfigsOk (s : State) : Prop :=
  s.store.active.Ok ∧ (∀ r, s.store.pendingCfg = some r → r.Ok) ∧ ∀ r, s.store.candidate = some r → r.Ok

/-- R121, R137: a claimant stands with a claim phase, a pending configuration with the phases ACTIVE and ENDING, and a
service operation in these two only. -/
def State.ClaimOk (s : State) : Prop :=
  (s.control.claimant = none ↔ s.control.phase = .none) ∧
    (s.store.pendingCfg ≠ none ↔ (s.control.phase = .active ∨ s.control.phase = .ending)) ∧
    (s.control.operation ≠ none → s.control.phase = .active ∨ s.control.phase = .ending)

/-- R121, R126, R127, R131: the modes a claim phase stands in, and the phases of DRAINING and SERVICE. R152, R162, R163: the
part is MOUNTING until mount ends, and a MOUNT entry, of which there is one at most, is in the queue in phase RECORDING
alone. -/
structure State.ModeOk (s : State) : Prop where
  claim : s.control.phase = .active ∨ s.control.phase = .ending → s.control.mode = .service ∨ s.control.mode = .frozen
  drain : s.control.phase = .draining → s.control.mode = .draining ∨ s.control.mode = .frozen
  service : s.control.mode = .service → s.control.phase = .active ∨ s.control.phase = .ending
  draining : s.control.mode = .draining → s.control.phase = .draining
  mounting : s.control.mode = .mounting ↔ s.mount.phase ≠ .ended
  record : ∀ e ∈ s.writer.queue, e.kind = .mount → s.mount.phase = .recording
  single : (s.writer.queue.filter fun e => e.kind = .mount).length ≤ 1

/-- R118, R152: the mount scan holds the array in phase SCANNING and in no other, and while it does no other requester has
any work: MOUNTING without a claim, the reclaim unit and the append writer IDLE, no entry, no cursor, no erase and no copy
write. -/
structure State.ScanOk (s : State) : Prop where
  holds : s.mount.phase = .scanning ↔ s.seq.grant = .mountScan
  mode : s.mount.phase = .scanning → s.control.mode = .mounting ∧ s.control.claimant = none
  format : s.mount.phase = .scanning → s.control.format = .none ∧ s.control.operation = none
  writer : s.mount.phase = .scanning → s.writer.queue = [] ∧ s.writer.state = .idle
  cursors : s.mount.phase = .scanning → s.cursors.fetchList = [] ∧ ∀ slot ∈ s.cursors.table, slot = none
  array : s.mount.phase = .scanning → s.reclaim = .idle ∧ s.seq.erases = [] ∧ s.store.operation = .none

/-- R14, R54: the counters stand in their ranges once the scan has set them, the newest durable sequence number is no
greater than the next one, and a head in WRITING has a number to receive. -/
structure State.CountersOk (s : State) : Prop where
  first : s.mount.phase ≠ .scanning → 1 ≤ s.writer.nextSequence
  next : s.writer.nextSequence ≤ 281474976710655
  durable : s.writer.newestDurable ≤ s.writer.nextSequence
  number : s.mount.number ≤ 65535
  writing : s.writer.state = .writing → s.writer.nextSequence < 281474976710655

/-- R30: the free pool stands by erase count ascending and, among equal counts, by index ascending. -/
def SegmentManager.InWearOrder (m : SegmentManager) : Prop :=
  let count (i : Nat) : Nat := (m.entry i).eraseCount.getD 0
  m.pool.Pairwise fun i j => count i < count j ∨ (count i = count j ∧ i < j)

/-- R30: a segment has joined the free pool at the place its count and index give; the others stand as they did. -/
structure SegmentManager.JoinsPool (old new : SegmentManager) (i : Nat) : Prop where
  place : ∃ before after, old.pool = before ++ after ∧ new.pool = before ++ i :: after
  order : i ∉ old.pool → old.InWearOrder → new.InWearOrder

/-- R24, R29, R30, R31: the map has 62 entries; every FREE segment stands in the pool, every DIRTY one in the dirty list,
every OPEN or SEALED one in the ring, each once, and no other segment in any of the three; the pool is in its wear order,
and only the ring's tail is OPEN. -/
structure State.SegmentsOk (s : State) : Prop where
  map : s.segs.map.length = 62
  journal : ∀ i ∈ s.segs.ring ++ s.segs.pool ++ s.segs.dirty, 2 ≤ i ∧ i ≤ 63
  once : (s.segs.ring ++ s.segs.pool ++ s.segs.dirty).Nodup
  free : ∀ i, 2 ≤ i → i ≤ 63 → ((s.seg i).state = .free ↔ i ∈ s.segs.pool)
  wear : s.segs.InWearOrder
  dirty : ∀ i, 2 ≤ i → i ≤ 63 → ((s.seg i).state = .dirty ↔ i ∈ s.segs.dirty)
  ring : ∀ i, 2 ≤ i → i ≤ 63 → (((s.seg i).state = .open ∨ (s.seg i).state = .sealed) ↔ i ∈ s.segs.ring)
  tail : ∀ i ∈ s.segs.ring.dropLast, (s.seg i).state = .sealed

/-- R94, R96, R113, R115: no segment and no requester is in the erase list twice; a store's erase is of a copy segment and
every other one of a journal segment that is ERASING; an entry of the reclaim unit is its target, and one of FORMAT the
segment FORMAT waits for. The reclaim unit is SELECTING until its retire grant chooses; from then to the end of the grant
its target is ERASING and not yet in the list. A segment that FORMAT is about to mark is ERASING and not yet in the list. While a requester holds the array the head erase is not
ACTIVE. -/
structure State.ErasesOk (s : State) : Prop where
  once : (s.seq.erases.map Erase.segment).Nodup
  oneEach : (s.seq.erases.map Erase.requester).Nodup
  copies : ∀ e ∈ s.seq.erases, e.requester = .store →
    e.segment ≤ 1 ∧ ∃ kind, s.store.operation = .copyWrite kind .erase
  journal : ∀ e ∈ s.seq.erases, e.requester ≠ .store →
    2 ≤ e.segment ∧ e.segment ≤ 63 ∧ (s.seg e.segment).state = .erasing
  reclaim : ∀ e ∈ s.seq.erases, e.requester = .reclaim → ∃ source, s.reclaim = .erasing e.segment source e.attempt
  format : ∀ e ∈ s.seq.erases, e.requester = .format → ∃ wasBad, s.control.format = .erase e.segment wasBad
  selecting : s.seq.grant = .retire → s.reclaim = .selecting
  retiring : s.seq.grant = .retiring →
    (∀ e ∈ s.seq.erases, e.requester ≠ .reclaim) ∧
      ∃ i source, s.reclaim = .erasing i source 1 ∧ 2 ≤ i ∧ i ≤ 63 ∧ (s.seg i).state = .erasing ∧
        ∀ e ∈ s.seq.erases, e.segment ≠ i
  taken : ∀ i wasBad, s.control.format = .retireSegment i wasBad →
    2 ≤ i ∧ i ≤ 63 ∧ (s.seg i).state = .erasing ∧ ∀ e ∈ s.seq.erases, e.segment ≠ i
  alone : s.seq.grant ≠ .none → s.eraseActive = false

/-- R52, R121, R133, R134, R137: a FORMAT at one of its steps is the operation in flight, with no cursor; a copy write serves
the operation in flight, and FORMAT's at its own step; before FORMAT's record no entry is in the append queue, and a CONFIG
or FORMAT entry, of which there is one at most, stands there only at its operation's last step; once the ring is retired it
is empty, and once FORMAT takes segments the reclaim unit has no target. The writer is IDLE just while the queue is
empty. -/
structure State.FormatOk (s : State) : Prop where
  inFlight : s.control.format ≠ .none → s.formatInFlight = true ∧ ∀ slot ∈ s.cursors.table, slot = none
  store : ∀ kind step, s.store.operation = .copyWrite kind step →
    (∃ op, s.control.operation = some op ∧ op.kind = kind) ∧ (kind = .format ↔ s.control.format = .copyWrite)
  queue : s.control.format ≠ .none → s.control.format ≠ .record → s.writer.queue = []
  config : ∀ e ∈ s.writer.queue, e.kind = .config → s.store.operation = .copyWrite .commitConfig .record
  record : ∀ e ∈ s.writer.queue, e.kind = .format → s.control.format = .record
  single : (s.writer.queue.filter fun e => e.kind = .config ∨ e.kind = .format).length ≤ 1
  idle : s.writer.queue = [] ↔ s.writer.state = .idle
  ring : (s.control.format = .awaitReclaim ∨ (∃ i b, s.control.format = .retireSegment i b) ∨
    ∃ i b, s.control.format = .erase i b) → s.segs.ring = []
  taking : ((∃ i b, s.control.format = .retireSegment i b) ∨ ∃ i b, s.control.format = .erase i b) →
    (∀ e ∈ s.seq.erases, e.requester ≠ .reclaim) ∧ s.seq.grant ≠ .retire ∧ s.seq.grant ≠ .retiring

/-- R69: no cursor's delivered position lies above the newest durable sequence number, and neither of its positions below
the oldest boundary B. -/
def State.PositionsOk (s : State) : Prop :=
  ∀ slot ∈ s.cursors.table, ∀ c, slot = some c →
    s.oldest ≤ c.acked ∧ s.oldest ≤ c.delivered ∧ c.delivered ≤ s.writer.newestDurable

/-- R54, R69: no record stands DURABLE in the array with a number above the newest durable sequence number. -/
def State.RecordsOk (s : State) : Prop :=
  ∀ segment line h, recordAt s.array segment line = .durable h → h.sequence ≤ s.writer.newestDurable

/-- R95: what the IDLE reclaim unit makes a retire request on: RUN or DRAINING, or a CONFIG entry that waits for a segment
at the head; no FORMAT in flight; a free count below the free target; no erase; a DIRTY segment or an eligible ring
head. -/
def State.WantsRetire (s : State) : Prop :=
  (s.control.mode = .run ∨ s.control.mode = .draining ∨
      (s.writer.state = .waiting ∧ ∃ e rest, s.writer.queue = e :: rest ∧ e.kind = .config)) ∧
    (∀ op, s.control.operation = some op → op.kind ≠ .format) ∧
    s.segs.pool.length < s.store.active.freeTarget ∧ s.seq.erases = [] ∧
    (s.segs.dirty ≠ [] ∨ s.eligible = true)

/-- R95, R111: the reclaim unit is not IDLE while it has something to retire, and no request waits at a free array. -/
structure State.RequestsOk (s : State) : Prop where
  reclaim : s.reclaim = .idle → ¬ s.WantsRetire
  granted : s.seq.grant = .none → s.eraseActive = false →
    s.requestPending = false ∧ s.seq.erases = []

/-- R44, R192: a buffer's operand byte. -/
def BufferId.byte : BufferId → Byte
  | .zero => 0x00
  | .one => 0x01

/-- R47: none of the conditions that refuse a COMMIT on a buffer holds. -/
structure State.CommitReady (s : State) (p : Port) (b : BufferId) : Prop where
  outsideReset : s.inReset = false
  attached : (s.port p).attached = true
  mode : s.control.mode = .run
  loading : ((s.port p).buffer b).state = .loading
  full : ((s.port p).buffer b).length ≤ ((s.port p).buffer b).bytes.length
  writer : (s.store.active.stream ((s.port p).buffer b).stream).writers.has p = true
  opened : (s.store.active.stream ((s.port p).buffer b).stream).closed = false
  slot : (s.port p).lists.reserved + (s.port p).lists.queue.length < 16

/-- R48: the entry a COMMIT places: kind, source, stream, length and the CRC of the payload. -/
def State.newEntry (s : State) (p : Port) (b : BufferId) (tag : Byte) : Entry :=
  let u := (s.port p).buffer b
  { kind := .data, source := .host p b tag true, stream := u.stream, length := u.length, crc := crc32 u.bytes }

/-- R48: an accepted COMMIT, before the head of the queue is examined: answered QUEUED, one slot reserved, the buffer
QUEUED with its tag, the entry at the tail. -/
def State.committed (s : State) (p : Port) (b : BufferId) (tag : Byte) : State :=
  let t :=
    (s.answered p .queued []).modPort p fun u =>
      { u.setBuffer b { u.buffer b with state := .queued, tag := tag } with
        lists := { u.lists with reserved := u.lists.reserved + 1 } }
  { t with writer := { t.writer with queue := t.writer.queue ++ [s.newEntry p b tag] } }

/-- R36, R53: an OPEN segment holds a record of a length, from a line on. -/
structure State.RoomFor (s : State) (length i line : Nat) : Prop where
  opened : s.openSegment = some i
  atLine : line = 4 + (s.seg i).fill.getD 0
  room : (s.seg i).fill.getD 0 + (2 + (length + 15) / 16) ≤ 4092

/-- R33, R52, R54: the head can be written: a sequence number is left, and the record fits in the OPEN segment or a segment
may be opened for it, the last one for a MOUNT entry alone. -/
def State.CanWrite (s : State) (e : Entry) : Prop :=
  s.writer.nextSequence ≠ 281474976710655 ∧
    ((∃ i line, s.RoomFor e.length i line) ∨ 1 < s.segs.pool.length ∨ (e.kind = .mount ∧ s.segs.pool ≠ []))

/-- R52, R54: what the write-out of a head finds: the append writer holds the array, the head is in WRITING with a payload of
its declared length, and a sequence number is left. -/
structure State.WritesHead (s : State) (e : Entry) (behind : List Entry) : Prop where
  array : s.ArrayOk
  outsideReset : s.inReset = false
  grant : s.seq.grant = .append
  writing : s.writer.state = .writing
  queue : s.writer.queue = e :: behind
  payload : (s.entryPayload e).length = e.length
  short : e.length ≤ 1024 ∧ e.stream ≤ 15
  left : s.writer.nextSequence < 281474976710655
  number : s.mount.number < 65536
  map : s.segs.map.length = 62

/-- R53, step 1: the head is written in the OPEN segment, on lines that are blank. -/
structure State.HeadAt (s : State) (e : Entry) (behind : List Entry) (i line : Nat) : Prop where
  finds : s.WritesHead e behind
  room : s.RoomFor e.length i line
  journal : 2 ≤ i ∧ i ≤ 63
  blank : s.array.blank (lineAddress i line) (16 * (2 + (e.length + 15) / 16)) = true

/-- R52, R54: the write-out of a lone entry, with a sequence number left behind it. -/
structure State.WritesOut (s : State) (e : Entry) : Prop where
  head : s.WritesHead e []
  sequence : s.writer.nextSequence + 1 < 281474976710655

/-- R53, step 1: the record of a lone entry is written in the OPEN segment. -/
structure State.WritesAt (s : State) (e : Entry) (i line : Nat) : Prop where
  lone : s.HeadAt e [] i line
  sequence : s.writer.nextSequence + 1 < 281474976710655

/-- R55: of the programs of a record, its header (0), its payload lines, its COMMIT mark, the one numbered `n` has a bit to
program, so that it fails when the array does nothing. -/
def Entry.MayFail (e : Entry) (payload : List Byte) (n : Nat) : Prop :=
  n ≤ 1 + (e.length + 15) / 16 ∧
    (1 ≤ n → n ≤ (e.length + 15) / 16 → ∃ b ∈ (payload.drop (16 * (n - 1))).take 16, b ≠ 0xFF#8)

/-- What the array answers to a program: it carries it out, or it changes nothing. -/
def answerOf (failed : Bool) : Programmed := if failed = true then .left [] else .done

/-- R30, R34: a segment at the head of the pool is blank where its OPENED group and a record at its line 4 go. -/
structure State.FreshFor (s : State) (length j : Nat) (rest : List Nat) : Prop where
  head : s.segs.pool = j :: rest
  journal : 2 ≤ j ∧ j ≤ 63
  generation : s.segs.generation < 4294967295
  opened : s.array.blank (address j 16) 20 = true
  lines : s.array.blank (lineAddress j 4) (16 * (2 + (length + 15) / 16)) = true

/-- R34, R59: a segment behind the head of the pool is blank where its OPENED group and a record at its line 4 go. -/
structure State.FreshNext (s : State) (length j : Nat) : Prop where
  journal : 2 ≤ j ∧ j ≤ 63
  opened : s.array.blank (address j 16) 20 = true
  lines : s.array.blank (lineAddress j 4) (16 * (2 + (length + 15) / 16)) = true

/-- R53, R55, R58: the first attempt of a lone entry's record, in the OPEN segment or in one opened for it, of which the SEALED
group is blank: the segment, the answers that make the record's header program fail, its VOID and SEALED carried out, and
the segments that are then FREE. -/
inductive State.FirstAttemptFails (s : State) (e : Entry) : Nat → List Programmed → List Nat → Prop where
  | inPlace {i line : Nat} : s.WritesAt e i line → s.array.blank (address i 36) 12 = true →
      State.FirstAttemptFails s e i [.left [], .done, .done] s.segs.pool
  | opened {i : Nat} {rest : List Nat} : s.openSegment = none → s.FreshFor e.length i rest →
      s.array.blank (address i 36) 12 = true →
      State.FirstAttemptFails s e i [.done, .left [], .done, .done] rest

/-- R35, R53, R58 to R60: how a lone entry's write-out comes out: whether the entry is written, the array's answers, and the
MEDIA_FAULT notices. It is written at once, after a failed open, or in the retry; it is not written after two failed opens or
one of the last FREE segment, after a failed record without a segment for the retry, after two failed records, or after a
failed record and a failed open of the last FREE segment. -/
inductive State.ComesOut (s : State) (e : Entry) : Bool → List Programmed → List (Nat × FaultKind) → Prop where
  | inPlace {i line : Nat} : s.WritesAt e i line → State.ComesOut s e true [] []
  | opened {i : Nat} {rest : List Nat} : s.openSegment = none → s.FreshFor e.length i rest →
      State.ComesOut s e true [] []
  | openedNext {i j : Nat} {rest : List Nat} : s.openSegment = none → s.FreshFor e.length i (j :: rest) →
      s.FreshNext e.length j → j ≠ i → State.ComesOut s e true [.left []] [(i, .open)]
  | retried {i j : Nat} {rest : List Nat} {answers : List Programmed} : s.FirstAttemptFails e i answers (j :: rest) →
      s.FreshNext e.length j → j ≠ i → State.ComesOut s e true answers [(i, .record)]
  | openFails {i : Nat} : s.openSegment = none → s.FreshFor e.length i [] →
      State.ComesOut s e false [.left []] [(i, .open)]
  | opensFail {i j : Nat} {rest : List Nat} : s.openSegment = none → s.FreshFor e.length i (j :: rest) →
      s.FreshNext e.length j → j ≠ i → State.ComesOut s e false [.left [], .done, .left []] [(i, .open), (j, .open)]
  | recordFails {i : Nat} {answers : List Programmed} : s.FirstAttemptFails e i answers [] →
      State.ComesOut s e false answers [(i, .record)]
  | recordsFail {i j : Nat} {rest : List Nat} {answers : List Programmed} :
      s.FirstAttemptFails e i answers (j :: rest) → s.FreshNext e.length j → j ≠ i →
      s.array.blank (address j 36) 12 = true →
      State.ComesOut s e false (answers ++ [.done, .left []]) [(i, .record), (j, .record)]
  | retryOpenFails {i j : Nat} {answers : List Programmed} : s.FirstAttemptFails e i answers [j] →
      s.FreshNext e.length j → j ≠ i →
      State.ComesOut s e false (answers ++ [.left []]) [(i, .record), (j, .open)]

/-- R9, R54, R56: the record of an entry stands DURABLE at a line of an array: its header fields and its payload. -/
def State.Written (s : State) (m : Memory) (e : Entry) (i line : Nat) : Prop :=
  (∃ check, recordAt m i line =
    .durable
      { kind := e.kind.byte, stream := BitVec.ofNat 8 e.stream, origin := e.origin
        sequence := s.writer.nextSequence, mountNumber := s.mount.number, tick := s.tick.toNat
        length := e.length, payloadCrc := e.crc.toNat, headerCrc := check }) ∧
    readPayload m i line e.length = s.entryPayload e

/-- R51, R67: a DATA entry leaves with an outcome, and nothing else of the ports changes: its buffer is EMPTY, and its
completion is posted if its report is yes. -/
def State.Completes (s t : State) (p : Port) (b : BufferId) (tag : Byte) (report : Bool) (outcome : Code)
    (sequence : Nat) : Prop :=
  t.port p =
      { (s.port p).setBuffer b .cleared with
        lists :=
          if report then
            (s.port p).lists.post
              { kind := .commit, tag := tag, outcome := outcome, sequence := sequence, stream := 0, length := 0 }
          else (s.port p).lists } ∧
    ∀ q, q ≠ p → t.port q = s.port q

/-- R56, R69, R84: the cursor table once a record of a stream is durable: every WAITING cursor whose filter contains the
stream is FETCHING with its request and in the fetch list, and both positions of every cursor are at or above the oldest
boundary as it then stands (log 29). -/
def State.Wakes (s t : State) (stream : Nat) : Prop :=
  (∀ id c, id < 12 → s.cursor id = some c →
    t.cursor id =
      some
        { c with
          acked := max c.acked t.oldest
          delivered := max c.delivered t.oldest
          state :=
            match c.state with
            | .waiting r => if c.filter.getLsbD stream = true then .fetching r else .waiting r
            | other => other }) ∧
    ∀ id c r, id < 12 → s.cursor id = some c → c.state = .waiting r → c.filter.getLsbD stream = true →
      ∃ f ∈ t.cursors.fetchList, f.id = id ∧ f.owner = c.owner

/-- R104 to R107: a waiting head becomes blocked. Every attached port is handed PRESSURE with the free count, and the policy
decides: under HOLD a DATA head waits on its hold timer, from the full hold limit unless it runs already; under REFUSE a
lone DATA head leaves with FULL; under DEMOTE every RETAINING cursor acknowledged below the ring head's last sequence is
demoted, with CURSOR_DEMOTED to its owner, and the head waits for the space that gives (the order of several such notices
to one port is log 30); a system head waits. -/
structure State.BecomesBlocked (s t : State) (e : Entry) : Prop where
  hold : s.store.active.policy = .hold → e.kind = .data →
    t =
      State.handAll
        { s with
          writer :=
            { s.writer with
              pressure := .blocked, holdTimer := some (s.writer.holdTimer.getD (100 * s.store.active.holdLimit)) } }
        (.pressure s.segs.pool.length)
  system : s.store.active.policy ≠ .demote → e.kind ≠ .data →
    t =
      State.handAll { s with writer := { s.writer with pressure := .blocked, holdTimer := none } }
        (.pressure s.segs.pool.length)
  refuse : ∀ p b tag report, s.store.active.policy = .refuse → e.kind = .data → e.source = .host p b tag report →
    s.writer.queue = [e] → s.control.phase ≠ .draining →
    t = { s.handAll (.pressure s.segs.pool.length) with
          portA := t.portA, portB := t.portB, portC := t.portC
          writer := { s.writer with queue := [], state := .idle, pressure := .none, holdTimer := none } } ∧
      (s.handAll (.pressure s.segs.pool.length)).Completes t p b tag report .full 0
  demote : s.store.active.policy = .demote → s.cursors.table.length = 12 →
    let demoted (c : Cursor) : Bool :=
      match s.segs.ring with
      | [] => false
      | h :: _ => c.mode = .retaining && c.acked < (s.seg h).last
    t = { s with
          portA := t.portA, portB := t.portB, portC := t.portC
          cursors := { t.cursors with fetchList := s.cursors.fetchList }
          writer :=
            { s.writer with
              pressure :=
                match s.segs.ring with
                | h :: _ :: _ => if (s.seg h).state = .sealed then .waiting else .blocked
                | _ => .blocked
              holdTimer := none } } ∧
      (∀ id, t.cursor id = (s.cursor id).map fun c => if demoted c then { c with mode := .lossy } else c) ∧
      ∀ q, t.port q =
        { s.port q with
          lists :=
            if (s.port q).attached = true then
              ((List.range 12).filter fun id =>
                  match s.cursor id with
                  | none => false
                  | some c => c.owner = q && demoted c).foldl
                (fun l id => l.addNotice (.cursorDemoted id))
                ((s.port q).lists.addNotice (.pressure s.segs.pool.length))
            else (s.port q).lists }

/-- R102, R103: the pressure state decided afresh, as the reclaim unit is told of a new floor or is back in IDLE. Without a
waiting head nothing follows. With space producible the head waits for it, and its hold timer stops. Otherwise a blocked
head stays blocked, and a waiting one becomes blocked. -/
structure State.Redecides (s t : State) : Prop where
  apart : s.writer.state ≠ .waiting → t = s
  space : s.writer.state = .waiting → (s.reclaim ≠ .idle ∨ s.segs.dirty ≠ [] ∨ s.eligible = true) →
    t = { s with writer := { s.writer with pressure := .waiting, holdTimer := none } }
  stays : s.writer.state = .waiting → s.reclaim = .idle → s.segs.dirty = [] → s.eligible = false →
    s.writer.pressure = .blocked → t = s
  blocks : ∀ e rest, s.writer.state = .waiting → s.reclaim = .idle → s.segs.dirty = [] → s.eligible = false →
    s.writer.pressure ≠ .blocked → s.writer.queue = e :: rest → s.writer.nextSequence ≠ 281474976710655 →
    (if e.kind = .mount then s.segs.pool = [] else s.segs.pool.length ≤ 1) →
    (¬ ∃ i line, s.RoomFor e.length i line) → s.BecomesBlocked t e

/-- R87: the position to which a retire of the ring head overtakes: the retired segment's last sequence, or the newest
durable sequence number if that is lower, or the new oldest boundary if that is higher. `next` is the segment that
becomes the ring head. -/
def State.overtakePosition (s : State) (i next : Nat) : Nat :=
  max (min (s.seg i).last s.writer.newestDurable) (min ((s.seg next).first - 1) s.writer.newestDurable)

/-- R134, step 3: FORMAT takes segment `i`. Unless it is ERASING it leaves its collection, or BAD, and becomes ERASING; its
erase is requested when it was ERASING or its RETIRE word is present, and else its RETIRE program. -/
structure State.TakesSegment (s t : State) (i : Nat) : Prop where
  segs : t.segs =
    if (s.seg i).state = .erasing then s.segs
    else
      { s.segs.setEntry i
          { s.seg i with state := .erasing, generation := 0, first := 0, last := 0, fill := none, bad := none } with
        pool := s.segs.pool.filter fun j => j ≠ i
        dirty := s.segs.dirty.filter fun j => j ≠ i }
  step : t.control =
    { s.control with
      format :=
        let reason := if (s.seg i).state = .bad then (s.seg i).bad else none
        if (s.seg i).state = .erasing ∨ retirePresent s.array i = true then .erase i reason
        else .retireSegment i reason }
  request : t.seq =
    if (s.seg i).state = .erasing ∨ retirePresent s.array i = true then
      { s.seq with
        erases := s.seq.erases ++ [{ requester := .format, segment := i, attempt := 1 }]
        head := if s.seq.erases = [] then .pending else s.seq.head }
    else s.seq
  rest : t = { s with segs := t.segs, control := t.control, seq := t.seq }

/-- R134: what FORMAT goes on to with the ring as it is: the retiring of its head, or, with the ring empty, the wait for
the reclaim unit's erase, or segment 2. -/
structure State.FormatGoesOn (s t : State) : Prop where
  ring : s.segs.ring ≠ [] → t = { s with control := { s.control with format := .retireRing } }
  wait : s.segs.ring = [] → (∃ i source attempt, s.reclaim = .erasing i source attempt) →
    t = { s with control := { s.control with format := .awaitReclaim } }
  take : s.segs.ring = [] → (∀ i source attempt, s.reclaim ≠ .erasing i source attempt) → s.TakesSegment t 2

/-- R135: FORMAT ends its erases. With 8 segments usable MEDIA leaves the frozen cause, and a part in FROZEN with no cause
left enters SERVICE, FORMATTED. With more than one FREE segment the FORMAT record's entry is in the append queue and asks
for the array; else FORMAT completes MEDIA_FAULT. -/
structure State.FormatEnds (s t : State) (p : Port) (op : ServiceOperation) : Prop where
  rest : t.array = s.array ∧ t.segs = s.segs ∧ t.seq = s.seq ∧ t.cursors = s.cursors ∧ t.reclaim = s.reclaim ∧
    t.mount = s.mount ∧ t.tick = s.tick
  ends :
    let cause : FrozenCause :=
      { s.control.frozen with media := if 8 ≤ s.segs.usable then false else s.control.frozen.media }
    let leaves := 8 ≤ s.segs.usable ∧ s.control.frozen.sequence = false ∧ s.control.mode = .frozen
    let mode : Mode := if leaves then .service else s.control.mode
    let told := if leaves then s.handAll (.modeChanged .service .formatted) else s
    (1 < s.segs.pool.length →
      t.control = { s.control with format := .record, frozen := cause, mode := mode } ∧ t.store = s.store ∧
      (∀ q, t.port q = told.port q) ∧
      ∃ crc,
        t.writer =
          { s.writer with
            queue :=
              [{ kind := .format
                 source :=
                   .part
                     (be 2 s.store.active.formatCount ++ be 6 s.store.active.sequenceFloor ++ be 1 s.segs.usable ++
                       [0x00, 0x00, 0x00])
                 stream := 0, length := 12, crc := crc }]
            state := .requesting, pressure := .none, holdTimer := none }) ∧
    (s.segs.pool.length ≤ 1 →
      t.control = { s.control with format := .none, operation := none, frozen := cause, mode := mode } ∧
      t.store = { s.store with operation := .none, candidate := none } ∧ t.writer = s.writer ∧
      ∀ q, t.port q =
        if op.report = true ∧ q = p then
          { told.port q with
            lists :=
              (told.port q).lists.post
                { kind := .format, tag := op.tag, outcome := .mediaFault, sequence := 0, stream := 0
                  length := 0 } }
        else told.port q)

/-- R133, R146: a copy write into `target`, for an operation of the claimant, has failed: every attached port is handed
MEDIA_FAULT, CONFIG, the operation completes MEDIA_FAULT if its report is yes and is no longer in flight, a claim in phase
ENDING ends, and the configuration is as it was. -/
structure State.CopyWriteFailed (s t : State) (p : Port) (op : ServiceOperation) (target : Nat) : Prop where
  ports : s.control.phase ≠ .ending → ∀ q, t.port q =
    if op.report = true ∧ q = p then
      { (s.handAll (.mediaFault target .config)).port q with
        lists :=
          ((s.handAll (.mediaFault target .config)).port q).lists.post
            { kind := if op.kind = .commitConfig then .commitConfig else .format, tag := op.tag
              outcome := .mediaFault, sequence := 0, stream := 0, length := 0 } }
    else (s.handAll (.mediaFault target .config)).port q
  control : s.control.phase ≠ .ending → t.control = { s.control with operation := none, format := .none }
  ended : s.control.phase = .ending →
    t.control.operation = none ∧ t.control.format = .none ∧ t.control.claimant = none ∧ t.control.phase = .none
  store : t.store =
    { s.store with
      operation := .none
      candidate := none
      pendingCfg := if s.control.phase = .ending then none else s.store.pendingCfg }
  rest : t.segs = s.segs ∧ t.writer = s.writer ∧ t.reclaim = s.reclaim ∧ t.cursors.table = s.cursors.table ∧
    t.mount = s.mount ∧ t.tick = s.tick

/-- R82: where a fetch stands: a line of a segment, the segments of the ring that follow, and the delivered position it has
reached. -/
structure FetchPlace where
  segment : Nat
  line : Nat
  rest : List Nat
  delivered : Nat

/-- R82: one position treated without a delivery, and whether it is counted. A record is stepped over by its length: one no
higher than the delivered position, a TORN or VOIDED one, and one outside the filter, which raises the delivered position.
At a record that cannot be read, a blank position and the end of the lines the fetch goes on in the next segment. -/
inductive FetchStep (m : Memory) (filter : BitVec 16) : Bool → FetchPlace → FetchPlace → Prop where
  | behind {p : FetchPlace} {h : Header} : p.line < 4096 → recordAt m p.segment p.line = .durable h →
      h.sequence ≤ p.delivered →
      FetchStep m filter true p { p with line := p.line + (2 + (h.length + 15) / 16) }
  | outside {p : FetchPlace} {h : Header} : p.line < 4096 → recordAt m p.segment p.line = .durable h →
      p.delivered < h.sequence → filter.getLsbD h.stream.toNat = false →
      FetchStep m filter true p
        { p with line := p.line + (2 + (h.length + 15) / 16), delivered := h.sequence }
  | passed {p : FetchPlace} {h : Header} : p.line < 4096 →
      (recordAt m p.segment p.line = .torn h ∨ recordAt m p.segment p.line = .voided h) →
      FetchStep m filter true p { p with line := p.line + (2 + (h.length + 15) / 16) }
  | unreadable {p : FetchPlace} {i : Nat} {rest : List Nat} : p.line < 4096 →
      (recordAt m p.segment p.line = .invalid ∨ recordAt m p.segment p.line = .voidedUnreadable) → p.rest = i :: rest →
      FetchStep m filter true p { p with segment := i, line := 4, rest := rest }
  | ended {p : FetchPlace} {i : Nat} {rest : List Nat} :
      (4096 ≤ p.line ∨ recordAt m p.segment p.line = .blank) → p.rest = i :: rest →
      FetchStep m filter false p { p with segment := i, line := 4, rest := rest }

/-- R82: the positions treated one after the other, and how many of them were counted. -/
inductive FetchWalk (m : Memory) (filter : BitVec 16) : Nat → FetchPlace → FetchPlace → Prop where
  | start (p : FetchPlace) : FetchWalk m filter 0 p p
  | step {n : Nat} {counted : Bool} {p q r : FetchPlace} : FetchWalk m filter n p q → FetchStep m filter counted q r →
      FetchWalk m filter (if counted = true then n + 1 else n) p r

/-- R29, R81: a hint is valid: its segment is in the ring, with the generation the hint holds. -/
def State.ValidHint (s : State) (c : Cursor) (h : Hint) : Prop :=
  c.hint = some h ∧ h.segment ∈ s.segs.ring ∧ (s.seg h.segment).generation = h.generation

/-- R82, step 2: a segment holds a durable record above a position. -/
def State.HoldsAbove (s : State) (delivered i : Nat) : Prop :=
  (s.seg i).first ≤ (s.seg i).last ∧ delivered < (s.seg i).last

/-- R82, steps 1 and 2: where the fetch of a cursor starts: at a valid hint, else at line 4 of the first segment of the ring
that holds a durable record above the delivered position. -/
inductive State.StartsAt (s : State) (c : Cursor) : FetchPlace → Prop where
  | hint {h : Hint} {before rest : List Nat} : s.ValidHint c h → s.segs.ring = before ++ h.segment :: rest →
      h.segment ∉ before →
      State.StartsAt s c { segment := h.segment, line := h.line, rest := rest, delivered := c.delivered }
  | map {i : Nat} {before rest : List Nat} : (∀ h, ¬ s.ValidHint c h) → s.segs.ring = before ++ i :: rest →
      (∀ j ∈ before, ¬ s.HoldsAbove c.delivered j) → s.HoldsAbove c.delivered i →
      State.StartsAt s c { segment := i, line := 4, rest := rest, delivered := c.delivered }

/-- R157: the header of a record whose header check passes. -/
def Found.readable : Found → Option Header
  | .durable h => some h
  | .torn h => some h
  | .voided h => some h
  | _ => none

/-- R157: the lines of a segment at which the mount scan looks for a record. -/
inductive ScanLine (m : Memory) (i : Nat) : Nat → Prop where
  | first : ScanLine m i 4
  | next {line : Nat} {h : Header} : ScanLine m i line → line < 4096 → (recordAt m i line).readable = some h →
      ScanLine m i (line + (2 + (h.length + 15) / 16))

/-- R157: a record of a segment that the mount scan reads, with its header. -/
def ScanReads (m : Memory) (i line : Nat) (h : Header) : Prop :=
  ScanLine m i line ∧ line < 4096 ∧ (recordAt m i line).readable = some h

/-- R157: a record of a segment that the mount scan cannot read, where the records end early. -/
def ScanStops (m : Memory) (i line : Nat) : Prop :=
  ScanLine m i line ∧ line < 4096 ∧ (recordAt m i line = .invalid ∨ recordAt m i line = .voidedUnreadable)

/-- R154, rows 6 to 8: a ring segment. -/
def RingSegment (m : Memory) (i : Nat) : Prop :=
  (2 ≤ i ∧ i ≤ 63) ∧ badPresent m i = false ∧ retirePresent m i = false ∧ readErased m i = .valid ∧
    readOpened m i = .valid

/-- R156, R157: what the scan of a ring segment's records gives its entry: the last durable sequence, or the first sequence
minus 1, and the lines up to where the records end. -/
structure ScannedEntry (m : Memory) (i : Nat) (e : SegEntry) : Prop where
  fill : ∃ line, ScanLine m i line ∧ (4096 ≤ line ∨ (recordAt m i line).readable = none) ∧ e.fill = some (line - 4)
  last : (∃ line h, ScanLine m i line ∧ line < 4096 ∧ recordAt m i line = .durable h ∧ e.last = h.sequence) ∨
    ((∀ line h, ScanLine m i line → line < 4096 → recordAt m i line ≠ .durable h) ∧ e.last = readFirst m i - 1)
  above : ∀ line h, ScanLine m i line → line < 4096 → recordAt m i line = .durable h → h.sequence ≤ e.last

end Sys2Proof.Machine
end

