-- ==== Sys2Proof/Certificates/Slice0/Obligations.lean ====
section
/-! DEFINITION. The statements for the provers, family by family. A statement about a command says which state `exec`
answers with, for every operand value a host can send. `State.answered` is the taking and answering of a frame.
`State.settle` is what follows at the end of a command, where the reclaim unit may make its request and a free array is
granted; the statements GrantOrder, GrantsActAtOnce and RetireGrantChoosesItsTarget say what it does. -/

section

open Sys2Proof Sys2Proof.Machine

/-! ### The queue of commands and the whole part -/

/-- One step carries out the command at the front of the queue, with the rest of the queue behind it. On an empty queue
the part idles (the model's choice, log 13). -/
def Obligations.StepRunsTheFrontCommand : Prop :=
  (∀ (c : Instr) (rest : List Instr) (s : State), s.pending = c :: rest → step s = exec c (s.withPending rest)) ∧
    ∀ s : State, s.pending = [] → step s = .next s

/-- Every command completes, from every state and with every operand: the part never stops (a failure of the array, a bad
frame and a refusal have effects of their own). That a command leaves the queue of waiting commands alone is the model's
choice (log 13): the manual knows no such queue. -/
def Obligations.EveryCommandCompletes : Prop :=
  ∀ (c : Instr) (s : State), ∃ t, exec c s = .next t ∧ t.pending = s.pending

/-- R151, R173, R193: held in reset, the part takes no frame and carries out nothing: every command but the end of the
reset leaves the whole state as it is (that events of the array and of time are then ignored is log 25). As RESET is
asserted, nothing but the array and the reset itself changes, and every ATTN line and data output is released; whatever
the operation stopped, the state of every block stands until the reset ends. At its end every block's volatile state has
its reset value, the array holds what it held, and the mount scan holds the array. Values that the manual leaves undefined
until the mount are the model's choice (log 2 to 6) and not stated here. -/
def Obligations.ResetHoldsAndClearsThePart : Prop :=
  (∀ (c : Instr) (s : State), s.inReset = true → c ≠ .resetReleased → exec c s = .next s) ∧
  (∀ (cut : Cut) (s : State), s.inReset = false →
    ∃ t, exec (.resetAsserted cut) s = .next t ∧ t = { s with inReset := true, array := t.array } ∧
      (cut = .idle none → (s.seq.erases = [] ∨ s.seq.head = .pending) → t.array = s.array) ∧ ∀ p, t.attn p = false ∧ t.dataOut p = none) ∧
  ∀ s : State, s.inReset = true →
    ∃ t, exec .resetReleased s = .next t ∧ t.array = s.array ∧ t.inReset = false ∧
      (∀ p, (t.port p).attached = false ∧ (t.port p).lease = 0 ∧ (t.port p).link = .idle ∧
        (t.port p).leaseTimer = none ∧ (t.port p).maskCompletions = false ∧
        (t.port p).maskNotices = false ∧ (t.port p).detachedByLease = false ∧ (t.port p).lastRejected = false ∧
        (t.port p).window = [] ∧ (t.port p).lists = .cleared ∧ ∀ b, (t.port p).buffer b = .cleared) ∧
      t.writer.queue = [] ∧ t.writer.holdTimer = none ∧ t.writer.state = .idle ∧ t.writer.pressure = .none ∧
      t.cursors.table = List.replicate 12 none ∧ t.cursors.fetchList = [] ∧ t.reclaim = .idle ∧
      t.seq.erases = [] ∧ t.seq.slice = .stopped ∧ t.seq.lastFetch = .c ∧ t.seq.fetchCount = 0 ∧
      t.control.mode = .mounting ∧ t.control.claimant = none ∧ t.control.phase = .none ∧
      t.control.request = none ∧ t.control.operation = none ∧
      t.control.frozen = { media := false, sequence := false } ∧ t.store.pendingCfg = none ∧
      t.store.lock = false ∧ t.store.operation = .none ∧ t.mount.phase = .scanning ∧ t.tick = 0 ∧
      t.seq.grant = .mountScan

/-- What changes the array. Only the mount scan, the operations of the append writer, the reclaim unit and the
configuration, the end of an erase, and a reset that stops one of these change a byte of it. Programming turns erased bits
into programmed bits, and only an erase returns them: no command but the end of an erase and a reset, of which this says
nothing, turns a programmed bit back, whatever the array answers. The end of an erase attempt changes no byte outside the
segment of the ACTIVE head erase; without an ACTIVE erase it changes nothing at all (log 11). -/
def Obligations.ProgramsClearBitsAndErasesReturnThem : Prop :=
  (∀ (c : Instr) (s t : State), exec c s = .next t → (∀ r m, c ≠ .eraseAttemptEnd r m) →
    (∀ cut, c ≠ .resetAsserted cut) →
    (s.ArrayOk → ∀ a, t.array.read a &&& s.array.read a = t.array.read a) ∧
    ((∀ m, c ≠ .mountScan m) → (∀ m, c ≠ .appendWriteOut m) → (∀ m, c ≠ .retireGrant m) →
      (∀ m, c ≠ .configProgramGrant m) → t.array = s.array)) ∧
  ∀ (result : Erased) (media : List Programmed) (s : State),
    (∀ e rest, s.seq.erases = e :: rest →
      ∃ t, exec (.eraseAttemptEnd result media) s = .next t ∧
        ∀ a, a < address e.segment 0 ∨ address (e.segment + 1) 0 ≤ a → t.array.read a = s.array.read a) ∧
    ((s.seq.erases = [] ∨ s.seq.head ≠ .active ∨ s.inReset = true) →
      exec (.eraseAttemptEnd result media) s = .next s)

/-- R61, R119: what a reset that stops an operation may change in the array, whatever the stopped programs had done.
Outside the segment of a head erase that has begun, ACTIVE or SUSPENDED, no programmed bit is turned back, and nothing
changes but what the operation that holds the array was programming: a stopped fetch, start or resume changes nothing, a
stopped retire grant only the RETIRE word of the segment it chooses and nothing once it has taken it, and a stopped configuration program only the
record's place in the target copy segment. The record of a stopped write-out is not DURABLE, whatever its programs had
done, in the OPEN segment or in one opened for its retry; one stopped in its header program is found blank, INVALID, or
TORN with the whole header of the entry. A SEALED group that reads valid after a stopped write-out holds the segment's
last durable sequence, and an OPENED group that its program left unfinished reads valid only with the record's own
fields. R136: a stopped write-out of the FORMAT record puts no segment into the ring of the next mount (log 35).
R148: a stopped program of a candidate leaves no valid copy, or the candidate whole. R101, R119, R136, R154: the
segment of a head erase that has begun is found DIRTY, and a copy segment invalid; where the erase was carried to its
end it may be BAD by its mark, or FREE with its ERASED group whole. (What a stopped operation has done comes with the
event, and of a program cut short no bit but its own, log 8.) -/
def Obligations.ResetsStopTheArray : Prop :=
  ∀ (cut : Cut) (s t : State), s.ArrayOk → s.inReset = false → exec (.resetAsserted cut) s = .next t →
    (∀ a, (∀ e rest, s.seq.erases = e :: rest → s.seq.head ≠ .pending →
        a < address e.segment 0 ∨ address (e.segment + 1) 0 ≤ a) →
      t.array.read a &&& s.array.read a = t.array.read a ∧
      ((s.seq.grant = .none ∨ (∃ p c, s.seq.grant = .fetch p c) ∨ s.seq.grant = .start ∨ s.seq.grant = .resume ∨
          s.seq.grant = .retiring ∨ (s.seq.grant = .retire ∧ ¬ s.WantsRetire)) →
        t.array.read a = s.array.read a) ∧
      (∀ i, s.seq.grant = .retire →
        (s.segs.dirty.head? = some i ∨ (s.segs.dirty = [] ∧ s.segs.ring.head? = some i)) →
        (a < address i 12 ∨ address i 16 ≤ a) → t.array.read a = s.array.read a) ∧
      (∀ kind r, s.seq.grant = .config → s.store.operation = .copyWrite kind .program →
        s.store.candidate = some r → r.Ok →
        (let target := if s.store.selector = .copy0 then 1 else 0
         (a < address target 0 ∨ address target 40 ≤ a) → t.array.read a = s.array.read a))) ∧
    (∀ kind r, s.eraseActive = false → s.seq.grant = .config → s.store.operation = .copyWrite kind .program →
      s.store.candidate = some r → r.Ok →
      let target := if s.store.selector = .copy0 then 1 else 0
      readCopy s.array target = none →
        readCopy t.array target = none ∨ t.array.readBytes (address target 0) 40 = r.bytes) ∧
    (∀ e behind i line, s.eraseActive = false → s.HeadAt e behind i line → i ∉ s.segs.pool →
      (∀ f ∈ s.seq.erases, f.segment ≠ i) →
      (∀ h, recordAt t.array i line ≠ .durable h) ∧
      (∀ j rest, s.FreshFor e.length j rest → (∀ f ∈ s.seq.erases, f.segment ≠ j) →
        ∀ h, recordAt t.array j 4 ≠ .durable h) ∧
      ∀ bytes left, cut = .append [.left bytes] left →
        recordAt t.array i line = .blank ∨ recordAt t.array i line = .invalid ∨
          ∃ check, recordAt t.array i line =
            .torn
              { kind := e.kind.byte, stream := BitVec.ofNat 8 e.stream, origin := e.origin
                sequence := s.writer.nextSequence, mountNumber := s.mount.number, tick := s.tick.toNat
                length := e.length, payloadCrc := e.crc.toNat, headerCrc := check }) ∧
    (∀ e behind, s.eraseActive = false → s.WritesHead e behind →
      (∀ i, s.openSegment = some i → 2 ≤ i → i ≤ 63 → i ∉ s.segs.pool → (∀ f ∈ s.seq.erases, f.segment ≠ i) →
        (s.seg i).last < 281474976710656 → s.array.blank (address i 36) 12 = true →
        readSealed t.array i = .valid → readLast t.array i = (s.seg i).last) ∧
      ∀ j rest bytes left, s.openSegment = none → s.FreshFor e.length j rest → (∀ f ∈ s.seq.erases, f.segment ≠ j) →
        cut = .append [.left bytes] left → readOpened t.array j = .valid →
        readGeneration t.array j = s.segs.generation ∧ readFirst t.array j = s.writer.nextSequence ∧
          readOpenedMount t.array j = s.mount.number) ∧
    (∀ e behind, s.eraseActive = false → s.WritesHead e behind → e.kind = .format → s.openSegment = none →
      ∀ j, RingSegment t.array j → RingSegment s.array j) ∧
    ∀ e rest, s.seq.erases = e :: rest → s.seq.head ≠ .pending → e.segment ≤ 63 →
      ((∀ result media, cut ≠ .eraseEnd result media) ∨ s.seq.head = .suspended →
        (e.segment ≤ 1 → readCopy t.array e.segment = none) ∧
        (2 ≤ e.segment → classify t.array e.segment = .dirty)) ∧
      (e.requester = .store → e.segment ≤ 1 → readCopy t.array e.segment = none) ∧
      (e.requester ≠ .store → 2 ≤ e.segment →
        classify t.array e.segment = .dirty ∨ (∃ reason, classify t.array e.segment = .bad reason) ∨
          (classify t.array e.segment = .free ∧
            t.array.readBytes (address e.segment 0) 10 = erasedGroup (s.newEraseCount e.segment)))

/-- R54: outside a mount and a reset, the next sequence number stays as it is or, in a write-out alone, rises by one. -/
def Obligations.SequenceRisesByOneInWriteOuts : Prop :=
  ∀ (c : Instr) (s t : State), exec c s = .next t → c ≠ .resetReleased → (∀ m, c ≠ .mountScan m) →
    t.writer.nextSequence = s.writer.nextSequence ∨
      (t.writer.nextSequence = s.writer.nextSequence + 1 ∧ ∃ m, c = .appendWriteOut m)

/-! ### Invariants that every step keeps -/

/-- The array's listing stays canonical: addresses rising, all in the 4 MiB, no erased byte listed. The listing, and its
end at 4 MiB, are the model's own form of the flash array (log 1, log 22). -/
def Obligations.StepKeepsTheArrayCanonical : Prop :=
  ∀ s t : State, s.ArrayOk → step s = .next t → t.ArrayOk

/-- R165, R167, R171: no port's completion queue and reservations pass 16, no notice list passes 8, no lost count passes
255, and the lost count is above 0 only while the list holds notices. R174: nothing waits for, and nothing is reserved by,
a DETACHED port. -/
def Obligations.StepKeepsTheListsInOrder : Prop :=
  ∀ s t : State, step s = .next t → (s.ListsOk → t.ListsOk) ∧ (s.DetachedOk → t.DetachedOk)

/-- R68, R69: the cursor table keeps 12 slots, and no cursor's acknowledged position passes its delivered position. R109:
the consecutive fetch count stays from 0 to 4. -/
def Obligations.StepKeepsCursorsInOrder : Prop :=
  ∀ s t : State, step s = .next t → (s.CursorsOk → t.CursorsOk) ∧ (s.FetchCountOk → t.FetchCountOk)

/-- R121, R137: claimant, claim phase, pending configuration and service operation go together. R121, R126, R127, R131: a
claim in phase ACTIVE or ENDING stands in SERVICE or FROZEN, one in phase DRAINING in DRAINING or FROZEN, and neither
SERVICE nor DRAINING without its phase. R152, R162, R163: the part is MOUNTING until mount ends, and only then has a MOUNT
entry. -/
def Obligations.StepKeepsTheClaimConsistent : Prop :=
  ∀ s t : State, s.ClaimOk → step s = .next t →
    t.ClaimOk ∧ (s.ScanOk → s.FormatOk → s.ModeOk → t.ModeOk)

/-- R118, R152: the mount scan holds the array in phase SCANNING and in no other, and while it does no other requester has
any work. R14, R54: once the scan has set them, the next sequence number stays from 1 to 2^48 minus 1 with the newest
durable one no greater, the mount number stays within 16 bits, and a head is written only while a number is left. -/
def Obligations.StepKeepsTheCountersInRange : Prop :=
  ∀ s t : State, s.ScanOk → step s = .next t → t.ScanOk ∧ (s.CountersOk → t.CountersOk)

/-- R138: the active, the pending and the candidate configuration keep every field in range, the version, the floors and
the format count included: an edit, a copy write, a FORMAT and a mount leave no configuration out of it. The counters that
FORMAT copies into the floors stand in their own ranges (StepKeepsTheCountersInRange). -/
def Obligations.StepKeepsConfigurationsInRange : Prop :=
  ∀ s t : State, s.ScanOk → s.CountersOk → s.ConfigsOk → step s = .next t → t.ConfigsOk

/-- R24, R29 to R31: the map keeps 62 entries, and every journal segment stands in the one collection its state names, once.
R94, R113, R133, R134: the erase list, the reclaim unit's target and FORMAT's steps go together with it. -/
def Obligations.StepKeepsTheSegmentsInOrder : Prop :=
  ∀ s t : State, s.ClaimOk → s.ModeOk → s.ScanOk → s.CursorsOk → s.FormatOk → s.ErasesOk → s.SegmentsOk →
    step s = .next t →
    t.FormatOk ∧ t.ErasesOk ∧ t.SegmentsOk

/-- R69: while no record stands DURABLE in the array above the newest durable sequence number, every cursor keeps both
positions at or above the oldest boundary and its delivered position at or below the newest durable sequence number.
(Where B rises as a record becomes durable, that the positions rise with it is the model's choice, log 29. The premise on
records, RecordsOk, holds right after a reset, and no statement says that a step keeps it: it speaks of every line, and the
bytes of a payload may look like a record.) -/
def Obligations.StepKeepsPositionsInTheJournal : Prop :=
  ∀ s t : State, s.RecordsOk → s.ScanOk → s.CountersOk → s.CursorsOk → s.FormatOk → s.ErasesOk → s.SegmentsOk →
    s.PositionsOk → step s = .next t → t.PositionsOk

/-- R95: the reclaim unit is never left IDLE while the conditions of its request hold: it makes the request in the command
that brings them about. R111, R112: no request, and no erase, is left waiting at a free array: it is granted at once. -/
def Obligations.StepKeepsRequestsGranted : Prop :=
  ∀ s t : State, s.RequestsOk → step s = .next t → t.RequestsOk

/-- The state right after a reset meets every invariant above, and holds no DURABLE record. Where the manual gives no reset
value, the value is the model's choice (log 1 to 6). -/
def Obligations.ResetMeetsTheInvariants : Prop :=
  (State.reset.ArrayOk ∧ State.reset.ListsOk ∧ State.reset.CursorsOk ∧ State.reset.DetachedOk ∧
    State.reset.FetchCountOk ∧ State.reset.ClaimOk ∧ State.reset.ModeOk ∧ State.reset.ConfigsOk) ∧
    State.reset.ScanOk ∧ State.reset.CountersOk ∧ State.reset.FormatOk ∧ State.reset.ErasesOk ∧
    State.reset.SegmentsOk ∧ State.reset.PositionsOk ∧ State.reset.RequestsOk ∧ State.reset.RecordsOk

/-! ### Frames and layouts -/

/-- R177, R192: every host command, with every operand value, is read back from its frame, whatever bytes follow the
check byte within the select period. -/
def Obligations.FramesDecodeToTheirCommands : Prop :=
  ∀ (c : Instr) (p : Port) (frame after : List Byte), c.wf = true → encodeFrame c = some (p, frame) →
    decodeFrame p (frame ++ after) = c

/-- R138, R139, R190: a configuration record whose fields are in range takes 40 bytes, and is read back from them field
by field. -/
def Obligations.ConfigurationRecordsReadBack : Prop :=
  ∀ r : ConfigRecord, r.Ok → r.bytes.length = 40 ∧ ConfigRecord.ofBody (r.bytes.take 36) = some r

/-! ### What every frame meets first (R124, R177, R179) -/

/-- R177, R178, R193: a rejected frame changes nothing but the port's link: the status byte goes out, the
last-frame-rejected indication is set, a frame whose check byte arrived is answered FRAME_ERROR, and the link is IDLE with
the data output at high impedance once select is released; the lease timer runs on. R179: every command of a host but
ATTACH and READ STATUS is refused NOT_ATTACHED on a DETACHED port, and does nothing else. -/
def Obligations.RejectedAndUnattachedFrames : Prop :=
  ∀ (p : Port) (s : State), s.inReset = false →
    (∀ cause : FrameFault,
      exec (.frameError p cause) s =
        .next
          (s.modPort p fun u =>
            { u with
              statusOut := s.statusByte p
              lastRejected := true
              link := .idle
              response := if cause = .cutShort then none else some { code := .frameError, result := [] } })) ∧
    (∀ cause t, exec (.frameError p cause) s = .next t → t.dataOut p = none) ∧
    ∀ (c : Instr) (code : Byte) (operands : List Byte), encodeCommand c = some (p, code, operands) → c.wf = true →
      code ≠ 0x01 → code ≠ 0x02 → (s.port p).attached = false →
      exec c s = .next (s.answered p .notAttached []) ∧ (s.answered p .notAttached []).dataOut p = none

/-- R124: the refusals of the mode table, for an attached port. In MOUNTING every command is refused WRONG_MODE but
ATTACH, DETACH, READ STATUS and the two TAKE commands (BEGIN RECORD and COMMIT in their own tables). Under service the
cursor commands of a port that is not the claimant are refused WRONG_MODE. CLAIM SERVICE is refused BUSY in DRAINING,
SERVICE and FROZEN with a claim, and the other service commands WRONG_MODE in RUN and in FROZEN without a claim. -/
def Obligations.ModeTableRefusals : Prop :=
  ∀ (c : Instr) (p : Port) (code : Byte) (operands : List Byte) (s : State),
    encodeCommand c = some (p, code, operands) → c.wf = true → s.inReset = false → (s.port p).attached = true →
    (s.control.mode = .mounting → code ∉ [0x01#8, 0x02, 0x03, 0x10, 0x13, 0x30, 0x31] →
      exec c s = .next (s.answered p .wrongMode [])) ∧
    (0x20 ≤ code.toNat → code.toNat ≤ 0x28 →
      (s.control.mode = .service ∨
        (s.control.mode = .frozen ∧ (s.control.phase = .active ∨ s.control.phase = .ending))) →
      (s.control.claimant ≠ some p ∨ s.control.phase = .ending) →
      exec c s = .next (s.answered p .wrongMode [])) ∧
    (code = 0x40 →
      (s.control.mode = .draining ∨ s.control.mode = .service ∨
        (s.control.mode = .frozen ∧ s.control.claimant ≠ none)) →
      exec c s = .next (s.answered p .busy [])) ∧
    (code ∈ [0x41#8, 0x42, 0x51, 0x52, 0x53, 0x54] →
      (s.control.mode = .run ∨ (s.control.mode = .frozen ∧ s.control.claimant = none)) →
      exec c s = .next (s.answered p .wrongMode []))

/-! ### Port and journal commands -/

/-- R178, R191: the status byte: attached at position 0, completion waiting at 1, notice waiting at 2, the mode code at
3 to 5, claim or lease at 6, last frame rejected at 7. R183: READ STATUS, on an attached and a detached port, in every
mode, answers it as it stands once the frame is taken: with last frame rejected clear. READ CLOCK answers the tick counter
and the mount number, and WRONG_MODE in MOUNTING. R17, R25, R184: QUERY JOURNAL and QUERY SEGMENT answer the fields in the
order of R184 and R25, and change nothing. The oldest boundary is the ring head's first sequence minus 1 or the newest
durable sequence number if lower, and the newest durable sequence number when the ring is empty. -/
def Obligations.QueriesAnswerTheirFields : Prop :=
  (
  ∀ (p : Port) (s : State), s.inReset = false →
    exec (.readStatus p) s = .next (s.answered p .ok [s.statusByte p &&& 0x7F]) ∧
    ((s.port p).attached = true →
      exec (.readClock p) s =
        .next
          (if s.control.mode = .mounting then s.answered p .wrongMode []
          else s.answered p .ok (be 4 s.tick.toNat ++ be 2 s.mount.number))) ∧
    let b := s.statusByte p
    let u := s.port p
    b.getLsbD 0 = u.attached ∧ b.getLsbD 1 = !u.lists.queue.isEmpty ∧ b.getLsbD 2 = !u.lists.notices.isEmpty ∧
      b.extractLsb' 3 3 =
        (match s.control.mode with
        | .mounting => 0#3
        | .run => 1#3
        | .draining => 2#3
        | .service => 3#3
        | .frozen => 4#3) ∧
      (b.getLsbD 6 = true ↔
        (u.attached = true ∧ s.control.claimant = some p ∧
            (s.control.phase = .draining ∨ s.control.phase = .active)) ∨
          (u.attached = false ∧ u.detachedByLease = true)) ∧
      b.getLsbD 7 = u.lastRejected) ∧
  ∀ (p : Port) (index : Byte) (s : State), s.admits p .other →
    exec (.queryJournal p) s =
      .next
        (s.answered p .ok
          (be 6
              (match s.segs.ring with
              | [] => s.writer.newestDurable
              | h :: _ => min ((s.seg h).first - 1) s.writer.newestDurable) ++
            be 6 s.writer.newestDurable ++ be 6 s.writer.nextSequence ++ be 1 s.segs.pool.length ++
            be 1 s.segs.dirty.length ++ be 1 (62 - s.segs.usable) ++
            [s.control.mode.byte, s.control.frozen.byte,
              if s.control.phase = .ending then 0x00#8 else optionalPortByte s.control.claimant,
              s.writer.pressure.byte] ++
            be 2 s.mount.number ++ s.mount.findings.bytes)) ∧
    exec (.querySegment p index) s =
      .next
        (if 2 ≤ index.toNat ∧ index.toNat ≤ 63 then
          let e := s.seg index.toNat
          s.answered p .ok
            (be 1 index.toNat ++ [e.state.byte] ++ be 4 e.generation ++ be 6 e.first ++ be 6 e.last ++
              be 2 (e.fill.getD 0) ++ be 3 (e.eraseCount.getD 0) ++ be 1 e.faults ++
              [match e.bad with
              | none => 0x00#8
              | some .eraseFail => 0x01
              | some .programFail => 0x02
              | some .worn => 0x03])
        else s.answered p .badValue [])

/-- R180: ATTACH, in every mode and on an attached or a detached port: a mask with more than its two enables is refused
BAD_VALUE and a claimant's lease of 0 NO_RIGHT; else the port is ATTACHED with the lease and the mask, its timer starts
from the lease or stops, and the detached-by-lease flag is clear. That a bad mask is looked at before the claimant's lease
is the model's choice (log 16). -/
def Obligations.AttachStoresLeaseAndMask : Prop :=
  ∀ (p : Port) (lease mask : Byte) (s : State), s.inReset = false →
    exec (.attach p lease mask) s =
      .next
        (if 3 < mask.toNat then s.answered p .badValue []
        else if (s.port p).attached = true ∧ s.control.claimant = some p ∧
            (s.control.phase = .draining ∨ s.control.phase = .active) ∧ lease = 0 then
          s.answered p .noRight []
        else
          (s.answered p .ok []).modPort p fun u =>
            { u with
              attached := true
              lease := lease
              leaseTimer := if lease = 0 then none else some (100 * lease.toNat)
              maskCompletions := mask.getLsbD 0
              maskNotices := mask.getLsbD 1
              detachedByLease := false })

/-- R63, R89, R130, R174, R181, R182: DETACH, and the expiry of a lease timer with no time left; a timer that has time
left or stands still does not expire. The port is DETACHED with its lists cleared, its window and its uncommitted
buffers empty and its mask and lease kept; its QUEUED and WRITING buffers stand, and their entries keep their places and
report nothing (while the space that a waiting head waits for can still be produced); its fetch is gone, or its find
discarded while it holds the array; DETACH closes its cursors and lease expiry keeps them, IDLE and LOSSY at the same
positions, but for the steps that a fetch in its grant has made; its claim ends, or passes to ENDING while an operation
is in flight, which then reports nothing. The array and the segments are as they were. (That the lease is kept is the
model's choice, log 33.) -/
def Obligations.PortsDepart : Prop :=
  (∀ (p : Port) (s : State), (s.port p).leaseTimer ≠ some 0 → exec (.leaseExpiry p) s = .next s) ∧
  ∀ (p : Port) (byLease : Bool) (s : State), s.inReset = false → (s.port p).attached = true →
    (byLease = true → (s.port p).leaseTimer = some 0) →
    ∃ u : State, exec (if byLease then .leaseExpiry p else .detach p) s = .next u.settle ∧
      (u.port p).attached = false ∧ (u.port p).leaseTimer = none ∧ (u.port p).detachedByLease = byLease ∧
      (u.port p).window = [] ∧ (u.port p).lists = .cleared ∧ (u.port p).lease = (s.port p).lease ∧
      (u.port p).maskCompletions = (s.port p).maskCompletions ∧ (u.port p).maskNotices = (s.port p).maskNotices ∧
      (byLease = false → (u.port p).response = some { code := .ok, result := [] }) ∧
      (∀ b, (((s.port p).buffer b).state = .loading ∨ ((s.port p).buffer b).state = .faulted) →
        (u.port p).buffer b = .cleared) ∧
      (s.writer.nextSequence ≠ 281474976710655 →
        (s.writer.state = .waiting →
          s.writer.pressure = .blocked ∨ s.store.active.policy ≠ .refuse ∨ s.reclaim ≠ .idle ∨ s.segs.dirty ≠ [] ∨
            s.eligible = true) →
        (∀ b, (((s.port p).buffer b).state = .queued ∨ ((s.port p).buffer b).state = .writing) →
          (u.port p).buffer b = (s.port p).buffer b) ∧
        ∀ (k : Nat) e b tag report, s.writer.queue[k]? = some e → e.source = .host p b tag report →
          u.writer.queue[k]? = some { e with source := .host p b tag false }) ∧
      (∀ e ∈ u.writer.queue, ∀ b tag report, e.source = .host p b tag report → report = false) ∧
      (∀ f ∈ u.cursors.fetchList, f.owner ≠ p) ∧
      u.seq =
        { s.seq with
          grant :=
            match s.seq.grant with
            | .fetch q c => if q = p then .fetch q none else .fetch q c
            | g => g } ∧
      (byLease = false → ∀ id c, u.cursor id = some c → c.owner ≠ p) ∧
      (byLease = true → s.cursors.table.length = 12 → ∀ id c, s.cursor id = some c → c.owner = p →
        ∃ d, u.cursor id = some { c with state := .idle, mode := .lossy, delivered := d } ∧ c.delivered ≤ d ∧
          (s.seq.grant ≠ .fetch p (some id) → d = c.delivered)) ∧
      (u.control.claimant = some p → u.control.phase = .ending) ∧
      (s.control.claimant = some p → s.control.phase ≠ .ending → s.control.operation = none →
        u.control.claimant = none ∧ u.control.phase = .none ∧ u.store.pendingCfg = none) ∧
      (∀ op, s.control.claimant = some p → s.control.phase ≠ .ending → s.control.operation = some op →
        s.writer.nextSequence ≠ 281474976710655 →
        u.control.claimant = some p ∧ u.control.phase = .ending ∧
          u.control.operation = some { op with report := false }) ∧
      u.array = s.array ∧ u.segs = s.segs ∧ u.tick = s.tick ∧ u.mount.number = s.mount.number

/-! ### Appending -/

/-- R44: BEGIN RECORD, with its table of refusals in order. A refused command leaves the buffer as it was. R45: LOAD, by
the buffer's state. A frame with no bytes or more than 64 is answered FRAME_ERROR with no effect. R46: ABANDON empties a
LOADING or FAULTED buffer, takes an EMPTY one as it is, and never withdraws a committed record. LOAD and ABANDON are
refused WRONG_MODE in MOUNTING and taken in every other mode. -/
def Obligations.StagingCommands : Prop :=
  (
  ∀ (p : Port) (buffer stream : Byte) (length : BitVec 16) (s : State), s.inReset = false →
    (s.port p).attached = true →
    (1 < buffer.toNat → exec (.beginRecord p buffer stream length) s = .next (s.answered p .badValue [])) ∧
    ∀ b : BufferId, buffer = b.byte →
      exec (.beginRecord p buffer stream length) s =
        .next
          (if s.control.mode ≠ .run then s.answered p .wrongMode []
          else if ((s.port p).buffer b).state ≠ .empty then s.answered p .bufferBusy []
          else if stream.toNat = 0 ∨ 15 < stream.toNat then s.answered p .badStream []
          else if (s.store.active.stream stream.toNat).writers.has p = false then s.answered p .noRight []
          else if (s.store.active.stream stream.toNat).closed = true then s.answered p .streamClosed []
          else if 1024 < length.toNat then s.answered p .badLength []
          else
            (s.answered p .ok []).modPort p fun u =>
              u.setBuffer b
                { state := .loading, stream := stream.toNat, length := length.toNat, bytes := [], tag := 0 })) ∧
  ∀ (p : Port) (buffer : Byte) (offset : BitVec 16) (bytes : List Byte) (s : State), s.inReset = false →
    (s.port p).attached = true →
    ((bytes = [] ∨ 64 < bytes.length) →
      exec (.load p buffer offset bytes) s = exec (.frameError p .badCount) s) ∧
    (bytes ≠ [] → bytes.length ≤ 64 → s.control.mode = .mounting →
      exec (.load p buffer offset bytes) s = .next (s.answered p .wrongMode [])) ∧
    (bytes ≠ [] → bytes.length ≤ 64 → s.control.mode ≠ .mounting →
      (1 < buffer.toNat → exec (.load p buffer offset bytes) s = .next (s.answered p .badValue [])) ∧
      ∀ b : BufferId, buffer = b.byte →
        let u := (s.port p).buffer b
        exec (.load p buffer offset bytes) s =
          .next
            (match u.state with
            | .loading =>
              if offset.toNat = u.bytes.length ∧ u.bytes.length + bytes.length ≤ u.length then
                (s.answered p .ok []).modPort p fun v => v.setBuffer b { u with bytes := u.bytes ++ bytes }
              else (s.answered p .badOffset []).modPort p fun v => v.setBuffer b { u with state := .faulted }
            | .faulted => s.answered p .bufferFaulted []
            | .queued => s.answered p .bufferBusy []
            | .writing => s.answered p .bufferBusy []
            | .empty => s.answered p .badOffset [])) ∧
    (s.control.mode = .mounting → exec (.abandon p buffer) s = .next (s.answered p .wrongMode [])) ∧
    (s.control.mode ≠ .mounting → 1 < buffer.toNat →
      exec (.abandon p buffer) s = .next (s.answered p .badValue [])) ∧
    ∀ b : BufferId, s.control.mode ≠ .mounting → buffer = b.byte →
      exec (.abandon p buffer) s =
        .next
          (if ((s.port p).buffer b).state = .queued ∨ ((s.port p).buffer b).state = .writing then
            s.answered p .bufferBusy []
          else
            (s.answered p .ok []).modPort p fun u =>
              u.setBuffer b { state := .empty, stream := 0, length := 0, bytes := [], tag := 0 })

/-- R47: the refusals of COMMIT, in the order of the table: nothing is changed and nothing reserved. R48, R52: an accepted
COMMIT is answered QUEUED, reserves one completion slot and places its entry at the tail of the append queue, with its
buffer QUEUED. Behind another entry nothing else follows; at the head of an empty queue, with sequence numbers left and
space for the record, the writer asks for the array. -/
def Obligations.CommitQueuesTheRecord : Prop :=
  (
  ∀ (p : Port) (buffer tag : Byte) (s : State), s.inReset = false → (s.port p).attached = true →
    (1 < buffer.toNat → exec (.commit p buffer tag) s = .next (s.answered p .badValue [])) ∧
    ∀ b : BufferId, buffer = b.byte →
      let u := (s.port p).buffer b
      (u.state = .empty → exec (.commit p buffer tag) s = .next (s.answered p .incomplete [])) ∧
      (u.state = .faulted → exec (.commit p buffer tag) s = .next (s.answered p .bufferFaulted [])) ∧
      ((u.state = .queued ∨ u.state = .writing) →
        exec (.commit p buffer tag) s = .next (s.answered p .bufferBusy [])) ∧
      (u.state = .loading → s.control.mode ≠ .run →
        exec (.commit p buffer tag) s = .next (s.answered p .wrongMode [])) ∧
      (u.state = .loading → s.control.mode = .run →
        (u.bytes.length < u.length → exec (.commit p buffer tag) s = .next (s.answered p .incomplete [])) ∧
        (u.length ≤ u.bytes.length →
          ((s.store.active.stream u.stream).writers.has p = false →
            exec (.commit p buffer tag) s = .next (s.answered p .noRight [])) ∧
          ((s.store.active.stream u.stream).writers.has p = true →
            ((s.store.active.stream u.stream).closed = true →
              exec (.commit p buffer tag) s = .next (s.answered p .streamClosed [])) ∧
            ((s.store.active.stream u.stream).closed = false →
              16 ≤ (s.port p).lists.reserved + (s.port p).lists.queue.length →
              exec (.commit p buffer tag) s = .next (s.answered p .noSlot [])))))) ∧
  ∀ (p : Port) (b : BufferId) (tag : Byte) (s : State), s.CommitReady p b →
    (s.writer.queue ≠ [] → exec (.commit p b.byte tag) s = .next (s.committed p b tag).settle) ∧
    (s.writer.queue = [] → s.writer.nextSequence ≠ 281474976710655 →
      (1 < s.segs.pool.length ∨ ∃ i line, s.RoomFor ((s.port p).buffer b).length i line) →
      let u := s.committed p b tag
      exec (.commit p b.byte tag) s =
        .next
          (State.settle
            { u with writer := { u.writer with state := .requesting, pressure := .none, holdTimer := none } }))

/-- R102 to R107: a COMMIT whose record comes to the head of an empty queue and finds no space: it waits when space is
producible. When it is blocked, every attached port is handed PRESSURE with the free count, and the policy decides: HOLD
waits with the full hold limit, REFUSE completes FULL at once, DEMOTE demotes every RETAINING cursor acknowledged below
the ring head's last sequence, with a CURSOR_DEMOTED notice to its owner, and waits for the space that gives (the order of
several such notices is the model's choice, log 30). -/
def Obligations.CommitUnderPressure : Prop :=
  ∀ (p : Port) (b : BufferId) (tag : Byte) (s : State), s.CommitReady p b → s.writer.queue = [] →
    s.writer.nextSequence ≠ 281474976710655 → s.writer.pressure ≠ .blocked → s.segs.pool.length ≤ 1 →
    (¬ ∃ i line, s.RoomFor ((s.port p).buffer b).length i line) →
    let u := s.committed p b tag
    let blocked := s.reclaim = .idle ∧ s.segs.dirty = [] ∧ s.eligible = false
    (¬ blocked →
      exec (.commit p b.byte tag) s =
        .next
          (State.settle
            { u with writer := { u.writer with state := .waiting, pressure := .waiting, holdTimer := none } })) ∧
    (blocked → s.store.active.policy = .hold →
      exec (.commit p b.byte tag) s =
        .next
          (State.settle
            (({ u with
                writer :=
                  { u.writer with
                    state := .waiting, pressure := .blocked
                    holdTimer := some (100 * s.store.active.holdLimit) } } : State).handAll
              (.pressure s.segs.pool.length)))) ∧
    (blocked → s.store.active.policy = .refuse →
      exec (.commit p b.byte tag) s =
        .next
          (State.settle
            ((({ s.answered p .queued [] with
                writer := { s.writer with state := .idle, pressure := .none, holdTimer := none } } : State).handAll
                (.pressure s.segs.pool.length)).modPort p fun v =>
              { v.setBuffer b .cleared with
                lists :=
                  { v.lists with
                    queue :=
                      v.lists.queue ++
                        [{ kind := .commit, tag := tag, outcome := .full, sequence := 0, stream := 0
                           length := 0 }] } }))) ∧
    (blocked → s.store.active.policy = .demote → s.cursors.table.length = 12 →
      let demoted (c : Cursor) : Bool :=
        match s.segs.ring with
        | [] => false
        | h :: _ => c.mode = .retaining && c.acked < (s.seg h).last
      ∃ v : State, exec (.commit p b.byte tag) s = .next v.settle ∧
        v.writer =
          { u.writer with
            state := .waiting
            pressure :=
              match s.segs.ring with
              | h :: _ :: _ => if (s.seg h).state = .sealed then .waiting else .blocked
              | _ => .blocked
            holdTimer := none } ∧
        (∀ q, (v.port q) =
          { u.port q with
            lists :=
              if (s.port q).attached = true then
                ((List.range 12).filter fun id =>
                    match s.cursor id with
                    | none => false
                    | some c => c.owner = q && demoted c).foldl
                  (fun l id => l.addNotice (.cursorDemoted id))
                  ((u.port q).lists.addNotice (.pressure s.segs.pool.length))
              else (u.port q).lists }) ∧
        (∀ id, v.cursor id = (s.cursor id).map fun c => if demoted c then { c with mode := .lossy } else c) ∧
        v.cursors.fetchList = s.cursors.fetchList ∧ v.array = s.array ∧ v.segs = s.segs ∧ v.seq = s.seq ∧
        v.reclaim = s.reclaim ∧ v.control = s.control ∧ v.store = s.store ∧ v.mount = s.mount ∧ v.tick = s.tick)

/-- R53 to R56, R84: the write-out of a head in the OPEN segment, carried out by the array. The record stands durable at
the first blank line, with the entry's fields, the next sequence number, the tick and the mount number, and its payload;
no other byte of the array changes. The counters and the segment's entry follow, and the WAITING cursors of the stream
are woken (that positions rise with the oldest boundary is the model's choice, log 29). A DATA entry's buffer is EMPTY
and its completion OK, with the sequence number, is posted if its report is yes. Without an entry behind it the writer
is IDLE. R52, R102 to R107: an entry behind a DATA entry is the next head: it asks for the array when it fits in the
OPEN segment or a segment may be opened for it, and else waits for space that is producible, or becomes blocked. R54,
R65, R123, R126: the write-out that assigns 2^48 minus 2 leaves the sequence numbers exhausted: the part enters FROZEN
with cause SEQUENCE, every entry behind leaves with WRONG_MODE, and a claim that drains is ACTIVE, with its completion
OK. -/
def Obligations.WriteOutMakesTheRecordDurable : Prop :=
  ∀ (e : Entry) (behind : List Entry) (i line : Nat) (s : State), s.HeadAt e behind i line →
    let fill := (s.seg i).fill.getD 0 + (2 + (e.length + 15) / 16)
    let durable (u : State) : Prop :=
      s.Written u.array e i line ∧
        (∀ a, (a < lineAddress i line ∨ lineAddress i line + 16 * (2 + (e.length + 15) / 16) ≤ a) →
          u.array.read a = s.array.read a) ∧
        u.writer.nextSequence = s.writer.nextSequence + 1 ∧ u.writer.newestDurable = s.writer.nextSequence ∧
        u.segs = s.segs.setEntry i { s.seg i with last := s.writer.nextSequence, fill := some fill } ∧
        s.Wakes u e.stream ∧ u.seq = { s.seq with grant := .none } ∧ u.reclaim = s.reclaim ∧ u.tick = s.tick
    (behind = [] → s.writer.nextSequence + 1 < 281474976710655 → s.control.phase ≠ .draining →
      ∃ u : State, exec (.appendWriteOut []) s = .next u.settle ∧ durable u ∧ u.writer.queue = [] ∧
        u.writer.state = .idle ∧ u.writer.holdTimer = none ∧ u.writer.pressure = .none ∧
        ∀ p b tag report, e.source = .host p b tag report →
          s.Completes u p b tag report .ok s.writer.nextSequence ∧ u.control = s.control ∧ u.store = s.store ∧
            u.mount = s.mount) ∧
    ∀ p b tag report, e.source = .host p b tag report →
      (∀ next rest, behind = next :: rest → s.writer.nextSequence + 1 < 281474976710655 → s.writer.pressure ≠ .blocked →
        let stuck : Prop :=
          4092 < fill + (2 + (next.length + 15) / 16) ∧
            if next.kind = .mount then s.segs.pool = [] else s.segs.pool.length ≤ 1
        ∃ u v : State, exec (.appendWriteOut []) s = .next u.settle ∧ durable v ∧
          v.writer =
            { queue := behind, nextSequence := s.writer.nextSequence + 1, newestDurable := s.writer.nextSequence
              state := .waiting, holdTimer := none, pressure := .none } ∧
          s.Completes v p b tag report .ok s.writer.nextSequence ∧ v.control = s.control ∧ v.store = s.store ∧
          v.mount = s.mount ∧
          (¬ stuck → u = { v with writer := { v.writer with state := .requesting } }) ∧
          (stuck → (s.reclaim ≠ .idle ∨ s.segs.dirty ≠ [] ∨ v.eligible = true) →
            u = { v with writer := { v.writer with pressure := .waiting } }) ∧
          (stuck → s.reclaim = .idle → s.segs.dirty = [] → v.eligible = false → v.BecomesBlocked u next)) ∧
      (s.writer.nextSequence = 281474976710654 → (s.control.mode = .run ∨ s.control.mode = .draining) →
        (∀ f ∈ behind, ∃ q c own ownReport, f.source = .host q c own ownReport) →
        let drains := s.control.phase = .draining
        ∃ u : State, exec (.appendWriteOut []) s = .next u.settle ∧ durable u ∧ u.writer.queue = [] ∧
          u.writer.state = .idle ∧ u.writer.holdTimer = none ∧ u.writer.pressure = .none ∧
          u.control =
            { s.control with
              mode := .frozen, frozen := { s.control.frozen with sequence := true }
              phase := if drains then .active else s.control.phase
              request := if drains then none else s.control.request } ∧
          u.store = (if drains then { s.store with pendingCfg := some s.store.active } else s.store) ∧
          u.mount = s.mount ∧
          (drains → ∀ f ∈ u.cursors.fetchList, s.control.claimant ≠ some f.owner → f.held = true) ∧
          ∀ x : Port,
            let leaves (v : PortUnit) (f : Entry) (outcome : Code) (sequence : Nat) : PortUnit :=
              match f.source with
              | .part _ => v
              | .host q c own ownReport =>
                if q = x then
                  { v.setBuffer c .cleared with
                    lists :=
                      if ownReport = true then
                        v.lists.post
                          { kind := .commit, tag := own, outcome := outcome, sequence := sequence, stream := 0
                            length := 0 }
                      else v.lists }
                else v
            let written := leaves (s.port x) e .ok s.writer.nextSequence
            let told : PortUnit :=
              if (s.port x).attached = true then
                { written with lists := written.lists.addNotice (.modeChanged .frozen .sequence) }
              else written
            let flushed := behind.foldl (fun v f => leaves v f .wrongMode 0) told
            u.port x =
              match s.control.claimant, s.control.request with
              | some q, some r =>
                if drains ∧ r.report = true ∧ q = x then
                  { flushed with
                    lists :=
                      flushed.lists.post
                        { kind := .claimService, tag := r.tag, outcome := .ok, sequence := 0, stream := 0
                          length := 0 } }
                else flushed
              | _, _ => flushed)

/-- R33 to R37, R53: the write-out of a lone entry, of a host or of the part, that needs a new segment. The OPEN
segment, if there is one, is sealed at its last durable record; when its SEALED program fails it is SEALED in the map
all the same, with one more fault and MEDIA_FAULT, SEAL to every attached port. The first segment of the pool, also the
last one it holds, is opened with the next generation, the record's sequence number and the mount number, joins the tail
of the ring, and holds the record at its line 4 (that positions rise with the oldest boundary is the model's choice, log
29). When the OPENED program fails, the segment is DIRTY with one more fault and its RETIRE mark, every attached port is
handed MEDIA_FAULT, OPEN, and the next FREE segment is opened in its place, with the next generation after, and holds
the record. When that fails too, or none is left, each segment tried is DIRTY with one more fault and its RETIRE mark,
every attached port is handed MEDIA_FAULT, OPEN for each, no sequence number is assigned, and a DATA entry completes
MEDIA_FAULT. (What a system entry's producer does is in SystemEntriesTellTheirProducers.) -/
def Obligations.WriteOutOpensASegment : Prop :=
  ∀ (e : Entry) (j : Nat) (rest : List Nat) (sealFails : Bool) (s : State),
    s.WritesOut e → s.control.phase ≠ .draining → s.FreshFor e.length j rest →
    (let opened : SegEntry :=
      { s.seg j with
        state := .open, generation := s.segs.generation, first := s.writer.nextSequence
        last := s.writer.nextSequence, fill := some (2 + (e.length + 15) / 16) }
     let after (m : SegmentManager) : SegmentManager :=
      { m.setEntry j opened with
        ring := m.ring ++ [j], pool := rest, generation := s.segs.generation + 1 }
     let sealedMap : SegmentManager :=
      match s.openSegment with
      | none => s.segs
      | some i =>
        s.segs.setEntry i
          { s.seg i with
            state := .sealed
            faults := if sealFails = true then min 2 ((s.seg i).faults + 1) else (s.seg i).faults }
     let told : State :=
      match s.openSegment with
      | none => s
      | some i => if sealFails = true then s.handAll (.mediaFault i .seal) else s
     ((sealFails = true → s.openSegment ≠ none) →
        (∀ i, s.openSegment = some i →
          2 ≤ i ∧ i ≤ 63 ∧ i ≠ j ∧ 4092 < (s.seg i).fill.getD 0 + (2 + (e.length + 15) / 16) ∧
            (s.seg i).last < 281474976710656 ∧ s.array.blank (address i 36) 12 = true) →
        ∃ t, exec (.appendWriteOut (if sealFails = true then [.left []] else [])) s = .next t.settle ∧
          s.Written t.array e j 4 ∧ t.segs = after sealedMap ∧
          readOpened t.array j = .valid ∧ readGeneration t.array j = s.segs.generation ∧
          readFirst t.array j = s.writer.nextSequence ∧ readOpenedMount t.array j = s.mount.number ∧
          (∀ i, s.openSegment = some i → sealFails = false →
            readSealed t.array i = .valid ∧ readLast t.array i = (s.seg i).last) ∧
          (∀ a, (a < address j 16 ∨ address j 36 ≤ a) →
            (a < lineAddress j 4 ∨ lineAddress j 4 + 16 * (2 + (e.length + 15) / 16) ≤ a) →
            (∀ i, s.openSegment = some i → sealFails = true ∨ a < address i 36 ∨ address i 48 ≤ a) →
            t.array.read a = s.array.read a) ∧
          t.writer =
            { queue := [], nextSequence := s.writer.nextSequence + 1, newestDurable := s.writer.nextSequence
              state := .idle, holdTimer := none, pressure := .none } ∧
          s.Wakes t e.stream ∧ t.seq = { s.seq with grant := .none } ∧ t.reclaim = s.reclaim ∧ t.tick = s.tick ∧
          ∀ p b tag report, e.source = .host p b tag report →
            told.Completes t p b tag report .ok s.writer.nextSequence ∧ t.control = s.control ∧ t.store = s.store ∧
              t.mount = s.mount)) ∧
    let failed (i : Nat) : SegEntry := { s.seg i with state := .dirty, faults := min 2 ((s.seg i).faults + 1) }
    let refused (told : State) (segs : SegmentManager) (tried : List Nat) (media : List Programmed) : Prop :=
      ∃ t, exec (.appendWriteOut media) s = .next t.settle ∧ t.segs = segs ∧
        (∀ i ∈ tried, retirePresent t.array i = true) ∧
        (∀ a, (∀ i ∈ tried, a < address i 12 ∨ address i 16 ≤ a) → t.array.read a = s.array.read a) ∧
        t.writer = { s.writer with queue := [], state := .idle, holdTimer := none, pressure := .none } ∧
        t.cursors.table = s.cursors.table ∧ t.seq = { s.seq with grant := .none } ∧ t.reclaim = s.reclaim ∧
        t.tick = s.tick ∧
        ∀ p b tag report, e.source = .host p b tag report →
          told.Completes t p b tag report .mediaFault 0 ∧ t.cursors = s.cursors ∧ t.control = s.control ∧
            t.store = s.store ∧ t.mount = s.mount
    s.openSegment = none → s.array.blank (address j 12) 4 = true →
      (∀ k more, rest = k :: more → 2 ≤ k → k ≤ 63 → k ≠ j → s.segs.generation + 1 < 4294967295 →
        s.array.blank (address k 16) 20 = true →
        s.array.blank (lineAddress k 4) (16 * (2 + (e.length + 15) / 16)) = true →
        ∃ t, exec (.appendWriteOut [.left []]) s = .next t.settle ∧ s.Written t.array e k 4 ∧
          t.segs =
            { (s.segs.setEntry j (failed j)).setEntry k
                { s.seg k with
                  state := .open, generation := s.segs.generation + 1, first := s.writer.nextSequence
                  last := s.writer.nextSequence, fill := some (2 + (e.length + 15) / 16) } with
              ring := s.segs.ring ++ [k], pool := more, dirty := s.segs.dirty ++ [j]
              generation := s.segs.generation + 2 } ∧
          retirePresent t.array j = true ∧ readOpened t.array k = .valid ∧
          readGeneration t.array k = s.segs.generation + 1 ∧ readFirst t.array k = s.writer.nextSequence ∧
          readOpenedMount t.array k = s.mount.number ∧
          (∀ a, (a < address j 12 ∨ address j 16 ≤ a) → (a < address k 16 ∨ address k 36 ≤ a) →
            (a < lineAddress k 4 ∨ lineAddress k 4 + 16 * (2 + (e.length + 15) / 16) ≤ a) →
            t.array.read a = s.array.read a) ∧
          t.writer =
            { queue := [], nextSequence := s.writer.nextSequence + 1, newestDurable := s.writer.nextSequence
              state := .idle, holdTimer := none, pressure := .none } ∧
          s.Wakes t e.stream ∧ t.seq = { s.seq with grant := .none } ∧ t.reclaim = s.reclaim ∧ t.tick = s.tick ∧
          ∀ p b tag report, e.source = .host p b tag report →
            (s.handAll (.mediaFault j .open)).Completes t p b tag report .ok s.writer.nextSequence ∧
              t.control = s.control ∧ t.store = s.store ∧ t.mount = s.mount) ∧
      (rest = [] →
        refused (s.handAll (.mediaFault j .open))
          { s.segs.setEntry j (failed j) with
            pool := [], dirty := s.segs.dirty ++ [j], generation := s.segs.generation + 1 }
          [j] [.left []]) ∧
      ∀ k more, rest = k :: more → 2 ≤ k → k ≤ 63 → k ≠ j → s.segs.generation + 1 < 4294967295 →
        s.array.blank (address k 12) 4 = true → s.array.blank (address k 16) 20 = true →
        refused ((s.handAll (.mediaFault j .open)).handAll (.mediaFault k .open))
          { (s.segs.setEntry j (failed j)).setEntry k (failed k) with
            pool := more, dirty := s.segs.dirty ++ [j, k], generation := s.segs.generation + 2 }
          [j, k] [.left [], .done, .left []]

/-- R37, R58, R60, R67: a write-out of which the array does not carry out one program, the header's, a payload line's or
the COMMIT mark's, with no FREE segment for the retry. The record is VOIDED, its segment SEALED at its last durable
record with one more fault, every attached port is handed MEDIA_FAULT, RECORD, the sequence number is consumed, and
nothing becomes durable. (Where nothing of a failed header is programmed its place reads blank, log 34.) A VOID program
that fails too counts as one more fault and leaves the record TORN, or the place of a failed header blank; a SEALED
program that fails as one more, with MEDIA_FAULT, SEAL, and the segment is SEALED in the map all the same. A DATA entry
completes MEDIA_FAULT with no sequence number. -/
def Obligations.WriteOutEndsInMediaFault : Prop :=
  ∀ (e : Entry) (i line n : Nat) (voidFails sealFails : Bool) (s : State), s.WritesAt e i line →
    s.control.phase ≠ .draining → s.segs.pool = [] → s.array.blank (address i 36) 12 = true →
    e.MayFail (s.entryPayload e) n →
    let told := (if sealFails = true then s.handAll (.mediaFault i .seal) else s).handAll (.mediaFault i .record)
    ∃ u : State,
      exec (.appendWriteOut (List.replicate n .done ++ [.left [], answerOf voidFails, answerOf sealFails])) s =
        .next u.settle ∧
      voidPresent u.array i line = !voidFails ∧
      (n = 0 → voidFails = true → recordAt u.array i line = .blank) ∧
      (1 ≤ n → ∃ h, h.sequence = s.writer.nextSequence ∧
        recordAt u.array i line = if voidFails = true then .torn h else .voided h) ∧
      (sealFails = false → (s.seg i).last < 281474976710656 →
        readSealed u.array i = .valid ∧ readLast u.array i = (s.seg i).last) ∧
      u.writer =
        { s.writer with
          queue := [], nextSequence := s.writer.nextSequence + 1, state := .idle, holdTimer := none
          pressure := .none } ∧
      u.segs =
        s.segs.setEntry i
          { s.seg i with
            state := .sealed
            fill := some ((s.seg i).fill.getD 0 + (2 + (e.length + 15) / 16))
            faults :=
              min 2
                ((s.seg i).faults + 1 + (if voidFails = true then 1 else 0) + if sealFails = true then 1 else 0) } ∧
      (∀ a,
        (a < lineAddress i line ∨
          lineAddress i line + 16 * (2 + if n = 0 then 0 else (e.length + 15) / 16) ≤ a) →
        (sealFails = true ∨ a < address i 36 ∨ address i 48 ≤ a) → u.array.read a = s.array.read a) ∧
      u.seq = { s.seq with grant := .none } ∧ u.reclaim = s.reclaim ∧ u.tick = s.tick ∧
      u.cursors.table = s.cursors.table ∧
      ∀ p b tag report, e.source = .host p b tag report →
        told.Completes u p b tag report .mediaFault 0 ∧ u.cursors = s.cursors ∧ u.control = s.control ∧
          u.store = s.store ∧ u.mount = s.mount

/-- R58 to R60: a write-out of a lone DATA entry of which the array does not carry out one program, the header's, a payload
line's or the COMMIT mark's, with a FREE segment for the retry. The failed attempt is VOIDED, or, where the VOID program
fails too, keeps no VOID mark and counts one fault more, and its segment is SEALED; the same record, with the same sequence
number, becomes durable at line 4 of the new segment, and completes OK as one without a fault: one number is consumed (that
positions rise with the oldest boundary is the model's choice, log 29). When a program of the retry fails too, its record is
voided and its segment SEALED as well, each with its faults and its MEDIA_FAULT, RECORD notices, and the entry completes
MEDIA_FAULT: nothing becomes durable, and the number is consumed. -/
def Obligations.WriteOutRetriesOnce : Prop :=
  ∀ (p : Port) (b : BufferId) (tag : Byte) (report voidFails : Bool) (e : Entry) (i line j n : Nat) (rest : List Nat)
    (s : State),
    s.WritesAt e i line → e.source = .host p b tag report → s.control.phase ≠ .draining → s.FreshFor e.length j rest →
    i ≠ j → s.array.blank (address i 36) 12 = true → (s.seg i).last < 281474976710656 →
    e.MayFail (s.entryPayload e) n →
    let lines (n : Nat) : Nat := 2 + if n = 0 then 0 else (e.length + 15) / 16
    let cancelled : SegEntry :=
      { s.seg i with
        state := .sealed
        fill := some ((s.seg i).fill.getD 0 + (2 + (e.length + 15) / 16))
        faults := min 2 ((s.seg i).faults + 1 + if voidFails = true then 1 else 0) }
    let opened : SegEntry :=
      { s.seg j with
        state := .open, generation := s.segs.generation, first := s.writer.nextSequence
        last := s.writer.nextSequence, fill := some (2 + (e.length + 15) / 16) }
    let first : List Programmed := List.replicate n .done ++ [.left [], answerOf voidFails]
    (∃ u : State, exec (.appendWriteOut first) s = .next u.settle ∧ voidPresent u.array i line = !voidFails ∧
      (1 ≤ n → ∃ h, h.sequence = s.writer.nextSequence ∧
        recordAt u.array i line = if voidFails = true then .torn h else .voided h) ∧
      readSealed u.array i = .valid ∧ readLast u.array i = (s.seg i).last ∧ s.Written u.array e j 4 ∧
      (∀ a, (a < lineAddress i line ∨ lineAddress i line + 16 * lines n ≤ a) →
        (a < address i 36 ∨ address i 48 ≤ a) → (a < address j 16 ∨ address j 36 ≤ a) →
        (a < lineAddress j 4 ∨ lineAddress j 4 + 16 * (2 + (e.length + 15) / 16) ≤ a) →
        u.array.read a = s.array.read a) ∧
      u.writer =
        { queue := [], nextSequence := s.writer.nextSequence + 1, newestDurable := s.writer.nextSequence
          state := .idle, holdTimer := none, pressure := .none } ∧
      u.segs =
        { (s.segs.setEntry i cancelled).setEntry j opened with
          ring := s.segs.ring ++ [j], pool := rest, generation := s.segs.generation + 1 } ∧
      (s.handAll (.mediaFault i .record)).Completes u p b tag report .ok s.writer.nextSequence ∧
      s.Wakes u e.stream ∧ u.seq = { s.seq with grant := .none } ∧ u.reclaim = s.reclaim ∧ u.control = s.control ∧
      u.store = s.store ∧ u.mount = s.mount ∧ u.tick = s.tick) ∧
    ∀ m, e.MayFail (s.entryPayload e) m → s.array.blank (address j 36) 12 = true →
      ∃ u : State,
        exec (.appendWriteOut (first ++ [.done, .done] ++ List.replicate m .done ++ [.left []])) s = .next u.settle ∧
        voidPresent u.array i line = !voidFails ∧ voidPresent u.array j 4 = true ∧
        (1 ≤ m → ∃ h, recordAt u.array j 4 = .voided h ∧ h.sequence = s.writer.nextSequence) ∧
        readSealed u.array i = .valid ∧ readLast u.array i = (s.seg i).last ∧
        readOpened u.array j = .valid ∧ readFirst u.array j = s.writer.nextSequence ∧
        readSealed u.array j = .valid ∧ readLast u.array j = s.writer.nextSequence - 1 ∧
        (∀ a, (a < lineAddress i line ∨ lineAddress i line + 16 * lines n ≤ a) →
          (a < address i 36 ∨ address i 48 ≤ a) → (a < address j 16 ∨ address j 48 ≤ a) →
          (a < lineAddress j 4 ∨ lineAddress j 4 + 16 * lines m ≤ a) → u.array.read a = s.array.read a) ∧
        u.writer =
          { s.writer with
            queue := [], nextSequence := s.writer.nextSequence + 1, state := .idle, holdTimer := none
            pressure := .none } ∧
        u.segs =
          { (s.segs.setEntry i cancelled).setEntry j
              { opened with
                state := .sealed, last := s.writer.nextSequence - 1, faults := min 2 ((s.seg j).faults + 1) } with
            ring := s.segs.ring ++ [j], pool := rest, generation := s.segs.generation + 1 } ∧
        ((s.handAll (.mediaFault i .record)).handAll (.mediaFault j .record)).Completes u p b tag report .mediaFault
          0 ∧
        u.cursors = s.cursors ∧ u.seq = { s.seq with grant := .none } ∧ u.reclaim = s.reclaim ∧
        u.control = s.control ∧ u.store = s.store ∧ u.mount = s.mount ∧ u.tick = s.tick

/-- R57, R135, R147, R152, R163: what the producer of a lone system entry does with its outcome, written or not. The MOUNT
entry's ends the mount: its sequence number, or 0, stands in the findings, the phase is ENDED, and the part is in FROZEN
with its causes or in RUN, with MODE_CHANGED. The CONFIG entry's completes COMMIT CONFIG with OK whether or not it was
written; the FORMAT entry's completes FORMAT with OK when it was written and 8 segments are usable, else with
MEDIA_FAULT. The operation is then no longer in flight, and a claim in phase ENDING ends. So it is of an entry written in
the OPEN segment, and of one that opens a segment, as FORMAT's always does and a MOUNT entry that takes the reserve; of one
written after a failed open, or in the retry; and of one not written, because two opens fail, or the record and its retry, or
the record or an open with no further segment FREE. Every fault hands its MEDIA_FAULT notice first. -/
def Obligations.SystemEntriesTellTheirProducers : Prop :=
  ∀ (written : Bool) (payload : List Byte) (e : Entry) (answers : List Programmed) (faults : List (Nat × FaultKind))
    (s : State), s.WritesOut e → e.source = .part payload → s.control.phase ≠ .draining →
    s.ComesOut e written answers faults →
    let v := faults.foldl (fun v f => v.handAll (.mediaFault f.1 f.2)) s
    let sequence := if written then s.writer.nextSequence else 0
    ∃ u : State, exec (.appendWriteOut answers) s = .next u.settle ∧
      (e.kind = .mount →
        (let media := s.control.frozen.media || s.segs.usable < 8
         let frozen := media || s.control.frozen.sequence
         let causes : FrozenCause := { media := media, sequence := s.control.frozen.sequence }
         u.mount =
            { s.mount with
              phase := .ended, findings := { s.mount.findings with recordSequence := sequence, causes := causes } } ∧
          u.control = { s.control with frozen := causes, mode := if frozen then .frozen else .run } ∧
          u.store = s.store ∧
          ∀ q, u.port q =
            (v.handAll
                (if frozen then .modeChanged .frozen (if media then .media else .sequence)
                else .modeChanged .run .mounted)).port q)) ∧
      ((e.kind = .config ∨ e.kind = .format) →
        (let kind : RequestKind := if e.kind = .config then .commitConfig else .format
         let outcome : Code := if e.kind = .config ∨ (written = true ∧ 8 ≤ s.segs.usable) then .ok else .mediaFault
         u.control.operation = none ∧ u.control.format = .none ∧ u.store.operation = .none ∧ u.mount = s.mount ∧
          (s.control.phase = .ending →
            u.control.claimant = none ∧ u.control.phase = .none ∧ u.store.pendingCfg = none) ∧
          (s.control.phase ≠ .ending →
            u.control = { s.control with operation := none, format := .none } ∧
              u.store = { s.store with operation := .none, candidate := none } ∧
              ∀ q, u.port q =
                match s.control.operation, s.control.claimant with
                | some op, some p =>
                  if op.report = true ∧ q = p then
                    { v.port q with
                      lists :=
                        (v.port q).lists.post
                          { kind := kind, tag := op.tag, outcome := outcome, sequence := 0, stream := 0
                            length := 0 } }
                  else v.port q
                | _, _ => v.port q)))

/-! ### The array sequencer -/

/-- R95, R96, R111, R112: what a free array is granted at the end of a command: a retire request first, the one pending or
the one the IDLE reclaim unit makes, while R95's conditions hold; then the append request that has waited through four
fetch grants; then the fetch of the first port with one pending in the cyclic order after the last fetch port; then the
append request; then a configuration program; then the erase that is suspended or pending. A retire request whose
conditions no longer hold is in RetireGrantChoosesItsTarget, an append request whose head cannot be written in
GrantsActAtOnce. (That of several requests which one command brings to a free array this order takes the first is the
model's choice, log 32.) -/
def Obligations.GrantOrder : Prop :=
  ∀ s : State, s.arrayFree = true →
    let grant := s.settle.seq.grant
    ((s.reclaim = .selecting ∨ s.reclaim = .idle) → s.WantsRetire → grant = .retire) ∧
    (s.reclaim ≠ .selecting → ¬(s.reclaim = .idle ∧ s.WantsRetire) →
      (s.appendPending = true → ∃ e rest, s.writer.queue = e :: rest ∧ s.CanWrite e) →
      (s.appendPending = true → s.seq.fetchCount = 4 → grant = .append) ∧
      (¬(s.appendPending = true ∧ s.seq.fetchCount = 4) →
        (∀ p, (∃ c, grant = .fetch p c) ↔
          s.fetchPending p = true ∧
            match s.seq.lastFetch, p with
            | .a, .b => True
            | .a, .c => s.fetchPending .b = false
            | .a, .a => s.fetchPending .b = false ∧ s.fetchPending .c = false
            | .b, .c => True
            | .b, .a => s.fetchPending .c = false
            | .b, .b => s.fetchPending .c = false ∧ s.fetchPending .a = false
            | .c, .a => True
            | .c, .b => s.fetchPending .a = false
            | .c, .c => s.fetchPending .a = false ∧ s.fetchPending .b = false) ∧
        ((∀ p, s.fetchPending p = false) →
          (s.appendPending = true → grant = .append) ∧
          (s.appendPending = false →
            (s.configPending = true → grant = .config) ∧
            (s.configPending = false →
              (s.seq.erases ≠ [] → s.seq.head = .suspended → grant = .resume) ∧
              (s.seq.erases ≠ [] → s.seq.head = .pending → grant = .start) ∧
              (s.seq.erases = [] → grant = .none))))))

/-- R52, R95, R109 to R112: what else the end of a command does. At a held array whose erase slice has not elapsed, the IDLE
reclaim unit makes its request when R95's conditions hold, every other request waits, and nothing else changes; an ACTIVE
erase whose slice has elapsed is suspended as soon as a request is pending. A fetch granted makes its port the last fetch
port and raises the count of an append that waits, to 4 at most; the append granted sets the count to 0 and goes to
WRITING with its buffer, or, when its head can no longer be written, ends at once: the head waits for the space that can be
produced, and the next decision follows. A configuration program, a start and a resume do nothing more at the grant. (That
of several requests which one command brings to a free array R112's order takes the first is the model's choice, log 32.) -/
def Obligations.GrantsActAtOnce : Prop :=
  ∀ s : State,
    (s.arrayFree = false → ¬(s.eraseActive = true ∧ s.seq.slice = .elapsed) →
      (s.reclaim = .idle ∧ s.WantsRetire → s.settle = { s with reclaim := .selecting }) ∧
      (¬(s.reclaim = .idle ∧ s.WantsRetire) → s.settle = s)) ∧
    (s.seq.grant = .none → s.eraseActive = true → s.seq.slice = .elapsed →
      s.settle =
        if s.requestPending = true then
          State.settle { s with seq := { s.seq with head := .suspended, slice := .stopped } }
        else s) ∧
    (s.arrayFree = true → s.reclaim ≠ .selecting → ¬(s.reclaim = .idle ∧ s.WantsRetire) →
      (∀ e rest, s.appendPending = true → (s.seq.fetchCount = 4 ∨ ∀ p, s.fetchPending p = false) →
        s.writer.queue = e :: rest →
        (s.CanWrite e →
          let t : State :=
            { s with
              writer := { s.writer with state := .writing }
              seq := { s.seq with grant := .append, fetchCount := 0 } }
          s.settle =
            match e.source with
            | .part _ => t
            | .host p b _ _ => t.modPort p fun v => v.setBuffer b { v.buffer b with state := .writing }) ∧
        (¬ s.CanWrite e → s.writer.nextSequence ≠ 281474976710655 →
          (s.reclaim ≠ .idle ∨ s.segs.dirty ≠ [] ∨ s.eligible = true) →
          s.settle =
            State.settle
              { s with
                writer := { s.writer with state := .waiting, pressure := .waiting, holdTimer := none }
                seq := { s.seq with fetchCount := 0 } })) ∧
      ((s.appendPending = true → ∃ e rest, s.writer.queue = e :: rest ∧ s.CanWrite e) →
        (∀ p c, s.settle.seq.grant = .fetch p c →
          s.settle =
            { s with
              seq :=
                { s.seq with
                  grant :=
                    .fetch p ((s.cursors.fetchList.filter fun f => f.owner = p && !f.held).head?.map FetchEntry.id)
                  lastFetch := p
                  fetchCount :=
                    if s.writer.state = .requesting then min 4 (s.seq.fetchCount + 1) else s.seq.fetchCount } }) ∧
        ((s.settle.seq.grant = .config ∨ s.settle.seq.grant = .start ∨ s.settle.seq.grant = .resume) →
          s.settle = { s with seq := { s.seq with grant := s.settle.seq.grant } })))

/-- R112, R114, R115: the PENDING head erase that is granted the array is started and the SUSPENDED one resumed, each with
the full slice of the active configuration. The slice of an ACTIVE erase elapses when its time has run, and the erase is
suspended if a request of another class is pending; a slice with time left does not elapse. -/
def Obligations.ErasesStartYieldAndResume : Prop :=
  ∀ s : State, s.inReset = false → s.seq.erases ≠ [] →
    let active : State :=
      { s with
        seq := { s.seq with grant := .none, head := .active, slice := .running s.store.active.eraseSlice } }
    (s.seq.grant = .start → exec .eraseStart s = .next active) ∧
    (s.seq.grant = .resume → exec .eraseResume s = .next active) ∧
    (s.seq.head = .active → s.seq.slice = .running 0 →
      exec .eraseSliceElapsed s =
        .next
          (if s.requestPending = true then
            State.settle { s with seq := { s.seq with head := .suspended, slice := .stopped } }
          else { s with seq := { s.seq with slice := .elapsed } })) ∧
    ∀ left, s.seq.slice = .running (left + 1) → exec .eraseSliceElapsed s = .next s

/-! ### Cursors -/

/-- R71: OPEN CURSOR, with its table of refusals in order. A new cursor takes the lowest-numbered empty slot and stands at
the oldest boundary or at the newest durable sequence number. R76, R103: with a RETAINING cursor the floor is new, whatever
its position (log 23), and the pressure is decided afresh (the order of several notices that this hands to one port is the
model's choice, log 30). -/
def Obligations.OpenCursorTakesTheLowestSlot : Prop :=
  ∀ (p : Port) (filter : BitVec 16) (start mode : Byte) (s : State), s.admits p .cursor →
    (s.formatInFlight = true → exec (.openCursor p filter start mode) s = .next (s.answered p .busy [])) ∧
    (s.formatInFlight = false → filter = 0 →
      exec (.openCursor p filter start mode) s = .next (s.answered p .badStream [])) ∧
    (s.formatInFlight = false → filter ≠ 0 → (1 < start.toNat ∨ 1 < mode.toNat) →
      exec (.openCursor p filter start mode) s = .next (s.answered p .badValue [])) ∧
    (s.formatInFlight = false → filter ≠ 0 → start.toNat ≤ 1 → mode.toNat ≤ 1 →
      ((∀ id, id < 12 → s.cursor id ≠ none) ∨ 8 ≤ s.ownedCount p) →
      exec (.openCursor p filter start mode) s = .next (s.answered p .noCursor [])) ∧
    ∀ id, s.formatInFlight = false → filter ≠ 0 → start.toNat ≤ 1 → mode.toNat ≤ 1 → s.ownedCount p < 8 →
      id < 12 → s.cursor id = none → (∀ j, j < id → s.cursor j ≠ none) →
      let position := if start = 0x00 then s.oldest else s.writer.newestDurable
      let u :=
        (s.answered p .ok (be 1 id ++ be 6 position)).setCursor id
          (some
            { owner := p, filter := filter, mode := if mode = 0x00 then .retaining else .lossy
              delivered := position, acked := position, hint := none, state := .idle, overrun := 0 })
      ∃ t : State, exec (.openCursor p filter start mode) s = .next t.settle ∧
        if mode = 0x00 then u.Redecides t else t = u

/-- R72: CLOSE CURSOR, in every cursor state: an outstanding READ NEXT completes CANCELLED, the slot is empty and the
cursor's fetch is withdrawn, or, while it holds the array, its find discarded (R111). R73: SEEK sets both positions and
clears the hint: to s minus 1, or to the oldest boundary with GONE when s minus 1 lies below it. It is refused BUSY
during a read, which is looked at first (log 16), and BAD_SEQUENCE for 0 and beyond the newest durable record. R74: ACK,
in every cursor state, raises the acknowledged position, to at most the delivered position. R76, R103: with a RETAINING
cursor the floor is new, and the pressure is decided afresh (the order of several notices that this hands to one port is
the model's choice, log 30). -/
def Obligations.CloseSeekAndAckSetPositions : Prop :=
  ∀ (p : Port) (id : Byte) (position : BitVec 48) (c : Cursor) (s : State), s.admits p .cursor →
    s.cursor id.toNat = some c → c.owner = p →
    let told (u t : State) : Prop := if c.mode = .retaining then u.Redecides t else t = u
    (let u := s.answered p .ok []
      let v :=
        match c.state.request with
        | none => u
        | some r =>
          u.modLists p fun l =>
            l.post
              { kind := .readNext, tag := r.tag, outcome := .cancelled, sequence := 0, stream := 0, length := 0 }
      ∃ t : State, exec (.closeCursor p id) s = .next t.settle ∧
        told
          { v with
            cursors :=
              { table := s.cursors.table.set id.toNat none
                fetchList := s.cursors.fetchList.filter fun f => f.id ≠ id.toNat }
            seq :=
              { s.seq with
                grant :=
                  match s.seq.grant with
                  | .fetch q (some k) => if k = id.toNat then .fetch q none else .fetch q (some k)
                  | g => g } }
          t) ∧
    (c.state ≠ .idle → exec (.seek p id position) s = .next (s.answered p .busy [])) ∧
    (c.state = .idle → (position = 0 ∨ s.writer.newestDurable < position.toNat - 1) →
      exec (.seek p id position) s = .next (s.answered p .badSequence [])) ∧
    (c.state = .idle → position ≠ 0 → position.toNat - 1 ≤ s.writer.newestDurable →
      ∃ t : State, exec (.seek p id position) s = .next t.settle ∧
        told
          (if position.toNat - 1 < s.oldest then
            (s.answered p .gone (be 6 s.oldest)).setCursor id.toNat
              (some { c with delivered := s.oldest, acked := s.oldest, hint := none })
          else
            (s.answered p .ok (be 6 (position.toNat - 1))).setCursor id.toNat
              (some { c with delivered := position.toNat - 1, acked := position.toNat - 1, hint := none }))
          t) ∧
    ((position.toNat ≤ c.acked ∨ c.delivered < position.toNat) →
      exec (.ack p id position) s = .next (s.answered p .badSequence [])) ∧
    (c.acked < position.toNat → position.toNat ≤ c.delivered →
      ∃ t : State, exec (.ack p id position) s = .next t.settle ∧
        told ((s.answered p .ok []).setCursor id.toNat (some { c with acked := position.toNat })) t)

/-- R70: a command on a cursor whose id names no cursor of the port is refused NO_CURSOR and changes nothing. R75: REWIND
sets the delivered position back to the acknowledged one, clears the hint and answers the position. R78: QUERY CURSOR
answers the cursor's fields in the order of the rule and changes nothing. R77, R92, R103: SET CURSOR MODE: another value is
refused, the mode the cursor has changes nothing, and a new mode is all that changes in the cursor; the floor is new, and
the pressure is decided afresh (the order of several notices that this hands to one port is the model's choice, log 30). -/
def Obligations.RewindQueryAndSetMode : Prop :=
  ∀ (p : Port) (id tag mode : Byte) (position : BitVec 48) (wait : BitVec 16) (s : State), s.admits p .cursor →
    ((∀ c, s.cursor id.toNat = some c → c.owner ≠ p) →
      exec (.closeCursor p id) s = .next (s.answered p .noCursor []) ∧
      exec (.seek p id position) s = .next (s.answered p .noCursor []) ∧
      exec (.ack p id position) s = .next (s.answered p .noCursor []) ∧
      exec (.rewind p id) s = .next (s.answered p .noCursor []) ∧
      exec (.setCursorMode p id mode) s = .next (s.answered p .noCursor []) ∧
      exec (.queryCursor p id) s = .next (s.answered p .noCursor []) ∧
      exec (.readNext p id tag wait) s = .next (s.answered p .noCursor [])) ∧
    ∀ c : Cursor, s.cursor id.toNat = some c → c.owner = p →
      exec (.rewind p id) s =
        .next
          (if c.state ≠ .idle then s.answered p .busy []
          else
            (s.answered p .ok (be 6 c.acked)).setCursor id.toNat
              (some { c with delivered := c.acked, hint := none })) ∧
      exec (.queryCursor p id) s =
        .next
          (s.answered p .ok
            ([id] ++ be 2 c.filter.toNat ++ [if c.mode = .retaining then 0x00 else 0x01] ++ be 6 c.delivered ++
              be 6 c.acked ++
              (match c.state with
              | .idle => [0x00, 0x00]
              | .fetching r => [0x01, r.tag]
              | .waiting r => [0x02, r.tag]) ++
              [if c.hint = none then 0x00 else 0x01] ++
              (match c.state with
              | .waiting r => be 2 (r.deadline.getD 0)
              | _ => [0x00, 0x00]) ++
              be 1 c.overrun)) ∧
      (1 < mode.toNat → exec (.setCursorMode p id mode) s = .next (s.answered p .badValue [])) ∧
      ∀ m : CursorMode, mode = m.byte →
        (c.mode = m → exec (.setCursorMode p id mode) s = .next (s.answered p .ok [])) ∧
        (c.mode ≠ m →
          ∃ t : State, exec (.setCursorMode p id mode) s = .next t.settle ∧
            State.Redecides ((s.answered p .ok []).setCursor id.toNat (some { c with mode := m })) t)

/-- R79: READ NEXT is refused BUSY while a cursor of the port reads, then NO_SLOT without a completion slot, with the
window and the cursor as they were; accepted, it is answered QUEUED, reserves one slot, stores the tag and the wait limit,
empties the window, and the cursor is FETCHING with no deadline and last in the fetch list. R86: READ WINDOW answers the
bytes asked for and changes nothing; a count outside 1 to 64 is refused BAD_VALUE, an empty window or a range beyond the
image BAD_OFFSET, and one of the two where both hold (R86 gives them no order; the one the model answers is log 16). -/
def Obligations.ReadNextAndReadWindow : Prop :=
  ∀ (p : Port) (s : State), s.admits p .cursor →
    (∀ (id tag : Byte) (wait : BitVec 16) (c : Cursor), s.cursor id.toNat = some c → c.owner = p →
      ((∃ j c', s.cursor j = some c' ∧ c'.owner = p ∧ c'.state ≠ .idle) →
        exec (.readNext p id tag wait) s = .next (s.answered p .busy [])) ∧
      ((∀ j c', s.cursor j = some c' → c'.owner = p → c'.state = .idle) →
        (16 ≤ (s.port p).lists.reserved + (s.port p).lists.queue.length →
          exec (.readNext p id tag wait) s = .next (s.answered p .noSlot [])) ∧
        ((s.port p).lists.reserved + (s.port p).lists.queue.length < 16 →
          let u :=
            (s.answered p .queued []).modPort p fun v =>
              { v with window := [], lists := { v.lists with reserved := v.lists.reserved + 1 } }
          exec (.readNext p id tag wait) s =
            .next
              (State.settle
                { u with
                  cursors :=
                    { table :=
                        s.cursors.table.set id.toNat
                          (some { c with state := .fetching { tag := tag, wait := wait.toNat, deadline := none } })
                      fetchList :=
                        s.cursors.fetchList ++ [{ id := id.toNat, owner := p, held := false }] } })))) ∧
    ∀ (offset : BitVec 16) (count : Byte),
      let badCount : Prop := count.toNat = 0 ∨ 64 < count.toNat
      let badRange : Prop := (s.port p).window = [] ∨ (s.port p).window.length < offset.toNat + count.toNat
      (badCount → badRange → ∃ code, (code = .badValue ∨ code = .badOffset) ∧
        exec (.readWindow p offset count) s = .next (s.answered p code [])) ∧
      (badCount → ¬ badRange → exec (.readWindow p offset count) s = .next (s.answered p .badValue [])) ∧
      (¬ badCount → badRange → exec (.readWindow p offset count) s = .next (s.answered p .badOffset [])) ∧
      (¬ badCount → ¬ badRange →
        exec (.readWindow p offset count) s =
          .next (s.answered p .ok (((s.port p).window.drop offset.toNat).take count.toNat)))

/-- R81 to R84: a fetch that holds the array, from where it starts, over the positions it treats without a delivery. With
fewer than 256 counted, at a DURABLE record of the cursor's filter above the delivered position it delivers that record: the
window holds its description and payload, the cursor is IDLE at its sequence number with the hint after it, the fetch is
done, and the owner is posted READ NEXT, OK. Where the records of the newest segment end, or no segment holds a record
above the delivered position, it leaves the list; the request completes END with wait limit 0 or a deadline that has
passed, and otherwise waits, with its deadline or, at first, with the whole wait limit. The 256th counted header ends the
grant, and the fetch stays in the list with the hint at the next position (also where the records end there: read from R82,
log 23). The delivered position reached stands each time. R72, R111: a fetch whose find is discarded only gives the array
back. Nothing else changes, and the array is free for the next grant. -/
def Obligations.FetchGrantsDeliverOrEnd : Prop :=
  ∀ (p : Port) (s : State), s.inReset = false →
    let free : State := { s with seq := { s.seq with grant := .none } }
    (s.seq.grant = .fetch p none → exec (.fetchGrant p) s = .next free.settle) ∧
    ∀ (id : Nat) (c : Cursor) (r : Request), s.seq.grant = .fetch p (some id) → s.cursor id = some c → c.owner = p →
      c.state = .fetching r →
      let hintAt (q : FetchPlace) : Hint :=
        { segment := q.segment, generation := (s.seg q.segment).generation, line := q.line }
      let ended (delivered : Nat) (hint : Option Hint) : State :=
        let cursors (state : CursorState) : CursorUnit :=
          { table := s.cursors.table.set id (some { c with delivered := delivered, hint := hint, state := state })
            fetchList := s.cursors.fetchList.filter fun f => f.id ≠ id }
        if r.wait = 0 ∨ r.deadline = some 0 then
          { free.modLists p fun l =>
              l.post
                { kind := .readNext, tag := r.tag, outcome := .endOfJournal, sequence := 0, stream := 0
                  length := 0 } with
            cursors := cursors .idle }
        else { free with cursors := cursors (.waiting { r with deadline := some (r.deadline.getD r.wait) }) }
      (∀ (place q : FetchPlace) (n : Nat), s.StartsAt c place → FetchWalk s.array c.filter n place q → n < 256 →
        (∀ h : Header, q.line < 4096 → recordAt s.array q.segment q.line = .durable h → q.delivered < h.sequence →
          c.filter.getLsbD h.stream.toNat = true →
          exec (.fetchGrant p) s =
            .next
              (State.settle
                { free.modPort p fun v =>
                    { v with
                      window :=
                        be 1 id ++ [h.kind, h.stream, h.origin] ++ be 6 h.sequence ++ be 2 h.mountNumber ++
                          be 4 h.tick ++ be 2 h.length ++ be 4 h.payloadCrc ++ be 2 h.headerCrc ++
                          List.replicate 8 0x00#8 ++ s.array.readBytes (lineAddress q.segment (q.line + 2)) h.length
                      lists :=
                        v.lists.post
                          { kind := .readNext, tag := r.tag, outcome := .ok, sequence := h.sequence
                            stream := h.stream.toNat, length := h.length } } with
                  cursors :=
                    { table :=
                        s.cursors.table.set id
                          (some
                            { c with
                              state := .idle
                              delivered := h.sequence
                              hint := some { hintAt q with line := q.line + (2 + (h.length + 15) / 16) } })
                      fetchList := s.cursors.fetchList.filter fun f => f.id ≠ id } })) ∧
        (q.rest = [] →
          (4096 ≤ q.line ∨ recordAt s.array q.segment q.line = .blank ∨
            recordAt s.array q.segment q.line = .invalid ∨
            recordAt s.array q.segment q.line = .voidedUnreadable) →
          exec (.fetchGrant p) s = .next (ended q.delivered (some (hintAt q))).settle) ∧
        ∀ next : FetchPlace, n = 255 → FetchStep s.array c.filter true q next →
          exec (.fetchGrant p) s =
            .next
              (State.settle
                { free with
                  cursors :=
                    { s.cursors with
                      table :=
                        s.cursors.table.set id
                          (some { c with delivered := next.delivered, hint := some (hintAt next) }) } })) ∧
      ((∀ h, ¬ s.ValidHint c h) → (∀ i ∈ s.segs.ring, ¬ s.HoldsAbove c.delivered i) →
        exec (.fetchGrant p) s = .next (ended c.delivered none).settle)

/-- R80, R82: whatever a fetch grant writes into the read window of a port is the image of a record that is DURABLE in the
array, of a stream in the cursor's filter and above its delivered position: no cursor is delivered anything else. -/
def Obligations.FetchesDeliverDurableRecordsOnly : Prop :=
  ∀ (p : Port) (s t : State), exec (.fetchGrant p) s = .next t → ∀ q, (t.port q).window ≠ (s.port q).window →
    ∃ id c segment line h, s.cursor id = some c ∧ c.owner = q ∧ recordAt s.array segment line = .durable h ∧
      c.delivered < h.sequence ∧ c.filter.getLsbD h.stream.toNat = true ∧
      (t.port q).window = windowImage id h (readPayload s.array segment line h.length)

/-! ### Completions and notices -/

/-- R169, R172: TAKE COMPLETION and TAKE NOTICE, in every mode: NEXT answers and removes the oldest entry, or answers
EMPTY, and the answer is remembered; AGAIN repeats it and changes nothing; another operand is refused BAD_VALUE. A notice
comes with the lost count, which goes back to 0 with the take that empties the list; EMPTY carries lost count 0. R168, R170,
R171: a notice handed to the part's ports joins the list of each ATTACHED port that holds fewer than 8 and is counted lost
at 8, to 255 at most; a completion joins the tail of its port's queue in the slot reserved for it. R173: outside reset a
port's ATTN line is asserted just while its completion queue is not empty with completions enabled in its mask, or its
notice list is not empty with notices enabled. -/
def Obligations.CompletionAndNoticeLists : Prop :=
  ∀ (p : Port) (s : State),
    (∀ which : Byte, s.inReset = false → (s.port p).attached = true →
      let lists := (s.port p).lists
      exec (.takeCompletion p which) s =
        .next
          (if 1 < which.toNat then s.answered p .badValue []
          else if which = 0x00 then
            match lists.queue with
            | [] => (s.answered p .empty []).modLists p fun l => { l with lastCompletion := none }
            | c :: rest =>
              (s.answered p .ok c.bytes).modLists p fun l => { l with queue := rest, lastCompletion := some c }
          else
            match lists.lastCompletion with
            | none => s.answered p .empty []
            | some c => s.answered p .ok c.bytes) ∧
      exec (.takeNotice p which) s =
        .next
          (if 1 < which.toNat then s.answered p .badValue []
          else if which = 0x00 then
            match lists.notices with
            | [] => (s.answered p .empty [0x00]).modLists p fun l => { l with lastNotice := none }
            | [n] =>
              (s.answered p .ok (n.bytes lists.lost)).modLists p fun l =>
                { l with notices := [], lost := 0, lastNotice := some (n, lists.lost) }
            | n :: rest =>
              (s.answered p .ok (n.bytes lists.lost)).modLists p fun l =>
                { l with notices := rest, lastNotice := some (n, lists.lost) }
          else
            match lists.lastNotice with
            | none => s.answered p .empty [0x00]
            | some (n, lost) => s.answered p .ok (n.bytes lost))) ∧
    (∀ n : Notice, (s.handAll n).port p =
      if (s.port p).attached = false then s.port p
      else
        let l := (s.port p).lists
        { s.port p with
          lists :=
            if l.notices.length < 8 then { l with notices := l.notices ++ [n] }
            else { l with lost := min 255 (l.lost + 1) } }) ∧
    (s.inReset = false →
      (s.attn p = true ↔
        ((s.port p).lists.queue ≠ [] ∧ (s.port p).maskCompletions = true) ∨
          ((s.port p).lists.notices ≠ [] ∧ (s.port p).maskNotices = true))) ∧
    ∀ c : Completion, 0 < (s.port p).lists.reserved →
      let l := (s.port p).lists
      s.post p c = s.modLists p fun _ => { l with queue := l.queue ++ [c], reserved := l.reserved - 1 }

/-! ### The service claim -/

/-- R125 to R127, R140: CLAIM SERVICE: NO_RIGHT outside the service rights or without a lease, then NO_SLOT. Accepted with
the writer IDLE, the part is in SERVICE at once, the claim ACTIVE, the pending configuration a copy of the active one, the
completion posted, and other ports' fetches held. With the writer at work, the claim drains: in RUN the part enters
DRAINING, in FROZEN it stays. Every attached port is handed SERVICE_CLAIM, and MODE_CHANGED when the mode changes. -/
def Obligations.ClaimServiceBeginsTheClaim : Prop :=
  ∀ (p : Port) (tag : Byte) (s : State), s.inReset = false → (s.port p).attached = true →
    (s.control.mode = .run ∨ s.control.mode = .frozen) → s.control.claimant = none →
    ((s.store.active.rights.has p = false ∨ (s.port p).lease = 0) →
      exec (.claimService p tag) s = .next (s.answered p .noRight [])) ∧
    (s.store.active.rights.has p = true → (s.port p).lease ≠ 0 →
      (16 ≤ (s.port p).lists.reserved + (s.port p).lists.queue.length →
        exec (.claimService p tag) s = .next (s.answered p .noSlot [])) ∧
      ((s.port p).lists.reserved + (s.port p).lists.queue.length < 16 →
        (s.writer.state = .idle →
          ∃ u : State, exec (.claimService p tag) s = .next u.settle ∧
            u.control =
              { s.control with claimant := some p, phase := .active, request := none, mode := .service } ∧
            u.store = { s.store with pendingCfg := some s.store.active } ∧
            (u.port p).response = some { code := .queued, result := [] } ∧
            (u.port p).lists.queue =
              (s.port p).lists.queue ++
                [{ kind := .claimService, tag := tag, outcome := .ok, sequence := 0, stream := 0, length := 0 }] ∧
            (u.port p).lists.reserved = (s.port p).lists.reserved ∧
            (∀ q, (s.port q).attached = true →
              (u.port q).lists.notices =
                (((s.port q).lists.addNotice (.serviceClaim p true)).addNotice
                  (.modeChanged .service .claimed)).notices) ∧
            u.cursors =
              { s.cursors with
                fetchList := s.cursors.fetchList.map fun f => if f.owner = p then f else { f with held := true } } ∧
            (s.answered p .queued []).PortsButLists u ∧ u.writer = s.writer ∧ u.segs = s.segs ∧
            u.array = s.array ∧ u.seq = s.seq ∧ u.reclaim = s.reclaim ∧ u.mount = s.mount ∧ u.tick = s.tick) ∧
        (s.writer.state ≠ .idle →
          ∃ u : State, exec (.claimService p tag) s = .next u.settle ∧
            u.control =
              { s.control with
                claimant := some p, phase := .draining, request := some { tag := tag, report := true }
                mode := if s.control.mode = .run then .draining else .frozen } ∧
            u.store = s.store ∧ (u.port p).response = some { code := .queued, result := [] } ∧
            (u.port p).lists.queue = (s.port p).lists.queue ∧
            (u.port p).lists.reserved = (s.port p).lists.reserved + 1 ∧
            (∀ q, (s.port q).attached = true →
              let claimed := (s.port q).lists.addNotice (.serviceClaim p true)
              (u.port q).lists.notices =
                (if s.control.mode = .run then claimed.addNotice (.modeChanged .draining .claimed)
                else claimed).notices) ∧
            (s.answered p .queued []).PortsButLists u ∧ u.cursors = s.cursors ∧ u.writer = s.writer ∧
            u.segs = s.segs ∧ u.array = s.array ∧ u.seq = s.seq ∧ u.reclaim = s.reclaim ∧ u.mount = s.mount ∧
            u.tick = s.tick)))

/-- R52, R126: the write-out of the last entry of a drain. Its record is durable; then the claim is ACTIVE and the part in
SERVICE, with MODE_CHANGED, DRAINED to every attached port, the completion CLAIM SERVICE, OK to the claimant if its report
is yes, the pending configuration copied from the active one, and other ports' fetches held. (That positions rise with the
oldest boundary is the model's choice, log 29.) -/
def Obligations.DrainEndsInService : Prop :=
  ∀ (p q : Port) (b : BufferId) (tag own : Byte) (report ownReport : Bool) (e : Entry) (i line : Nat) (s : State),
    s.WritesAt e i line → e.source = .host q b own ownReport → s.control.mode = .draining →
    s.control.phase = .draining → s.control.claimant = some p →
    s.control.request = some { tag := tag, report := report } →
    ∃ u : State, exec (.appendWriteOut []) s = .next u.settle ∧ s.Written u.array e i line ∧
      u.writer =
        { queue := [], nextSequence := s.writer.nextSequence + 1, newestDurable := s.writer.nextSequence
          state := .idle, holdTimer := none, pressure := .none } ∧
      u.control = { s.control with mode := .service, phase := .active, request := none } ∧
      u.store = { s.store with pendingCfg := some s.store.active } ∧
      (∀ x,
        let written : PortUnit :=
          if x = q then
            { (s.port q).setBuffer b .cleared with
              lists :=
                if ownReport = true then
                  (s.port q).lists.post
                    { kind := .commit, tag := own, outcome := .ok, sequence := s.writer.nextSequence, stream := 0
                      length := 0 }
                else (s.port q).lists }
          else s.port x
        let told :=
          if (s.port x).attached = true then written.lists.addNotice (.modeChanged .service .drained)
          else written.lists
        u.port x =
          { written with
            lists :=
              if x = p ∧ report = true then
                told.post
                  { kind := .claimService, tag := tag, outcome := .ok, sequence := 0, stream := 0, length := 0 }
              else told }) ∧
      s.Wakes u e.stream ∧ (∀ f ∈ u.cursors.fetchList, f.owner ≠ p → f.held = true) ∧
      u.seq = { s.seq with grant := .none } ∧ u.reclaim = s.reclaim ∧ u.mount = s.mount ∧ u.tick = s.tick

/-- R129, R131: RELEASE SERVICE: NO_RIGHT from another port, BUSY with an operation in flight; else the claim ends, the
pending configuration is discarded, the mode is RUN, or FROZEN with a frozen cause, every held fetch is released, and in
phase DRAINING the claim request completes CANCELLED. Every attached port is handed MODE_CHANGED when the mode changes, and
then SERVICE_CLAIM. -/
def Obligations.ReleaseServiceEndsTheClaim : Prop :=
  ∀ (p q : Port) (s : State), s.inReset = false → (s.port p).attached = true →
    (s.control.mode = .draining ∨ s.control.mode = .service ∨ s.control.mode = .frozen) →
    s.control.claimant = some q →
    (s.control.phase = .ending → exec (.releaseService p) s = .next (s.answered p .wrongMode [])) ∧
    (s.control.phase ≠ .ending → p ≠ q → exec (.releaseService p) s = .next (s.answered p .noRight [])) ∧
    (s.control.phase ≠ .ending → p = q → s.control.operation ≠ none →
      exec (.releaseService p) s = .next (s.answered p .busy [])) ∧
    (s.control.phase ≠ .ending → p = q → s.control.operation = none →
      let rest : Mode :=
        if s.control.frozen.media = true ∨ s.control.frozen.sequence = true then .frozen else .run
      ∃ u : State, exec (.releaseService p) s = .next u.settle ∧ (u.port p).response = some { code := .ok, result := [] } ∧
        u.control =
          { s.control with claimant := none, phase := .none, request := none, operation := none, mode := rest } ∧
        u.store = { s.store with pendingCfg := none } ∧
        u.cursors =
          { s.cursors with fetchList := s.cursors.fetchList.map fun f => { f with held := false } } ∧
        (u.port p).lists.queue =
          (match s.control.phase, s.control.request with
          | .draining, some r =>
            if r.report = true ∧ 0 < (s.port p).lists.reserved then
              (s.port p).lists.queue ++
                [{ kind := .claimService, tag := r.tag, outcome := .cancelled, sequence := 0, stream := 0
                   length := 0 }]
            else (s.port p).lists.queue
          | _, _ => (s.port p).lists.queue) ∧
        (∀ x, (s.port x).attached = true →
          (u.port x).lists.notices =
            ((if s.control.mode = rest then (s.port x).lists
              else (s.port x).lists.addNotice (.modeChanged rest .released)).addNotice
              (.serviceClaim p false)).notices) ∧
        (s.answered p .ok []).PortsButLists u ∧ u.writer = s.writer ∧ u.segs = s.segs ∧ u.array = s.array ∧
        u.seq = s.seq ∧ u.reclaim = s.reclaim ∧ u.mount = s.mount ∧ u.tick = s.tick)

/-- R128, R132, R142, R144: the refusals of the service commands, in order, once the mode table has let them pass: no
claimant or phase ENDING, another port, phase DRAINING, the lock; then for the edits and COMMIT CONFIG an operation in
flight, and for FORMAT frozen cause SEQUENCE, an operation in flight or a queue that is not empty, and no completion
slot. -/
def Obligations.ServiceCommandRefusals : Prop :=
  ∀ (c : Instr) (p : Port) (code : Byte) (operands : List Byte) (s : State),
    encodeCommand c = some (p, code, operands) → code ∈ [0x42#8, 0x51, 0x52, 0x53, 0x54] →
    s.admits p .service →
    ((s.control.claimant = none ∨ s.control.phase = .ending) →
      exec c s = .next (s.answered p .wrongMode [])) ∧
    (∀ q, s.control.claimant = some q → s.control.phase ≠ .ending →
      (p ≠ q → exec c s = .next (s.answered p .noRight [])) ∧
      (p = q → s.control.phase = .draining → exec c s = .next (s.answered p .wrongMode [])) ∧
      (p = q → s.control.phase ≠ .draining → s.store.lock = true →
        exec c s = .next (s.answered p .locked [])) ∧
      (p = q → s.control.phase ≠ .draining → s.store.lock = false → s.control.operation ≠ none → code ≠ 0x42 →
        exec c s = .next (s.answered p .busy [])) ∧
      (p = q → s.control.phase ≠ .draining → s.store.lock = false → s.control.frozen.sequence = true →
        code = 0x42 → exec c s = .next (s.answered p .wrongMode [])) ∧
      (p = q → s.control.phase ≠ .draining → s.store.lock = false → s.control.frozen.sequence = false →
        (s.control.operation ≠ none ∨ s.writer.queue ≠ []) → code = 0x42 →
        exec c s = .next (s.answered p .busy [])) ∧
      (p = q → s.control.phase ≠ .draining → s.store.lock = false → s.control.frozen.sequence = false →
        s.control.operation = none → s.writer.queue = [] →
        16 ≤ (s.port p).lists.reserved + (s.port p).lists.queue.length → code = 0x42 →
        exec c s = .next (s.answered p .noSlot [])))

/-- R91, R132, R133: an accepted FORMAT: the operation is recorded, and every cursor is closed, in id order: its read
completes CANCELLED and its owner is handed CURSOR_CLOSED, its fetch is gone, and the find of one that holds the array is
discarded. With a segment OPEN the seal is asked for; without one the copy write begins: the candidate is the active
configuration with the version and the format count one more and the floors at the present counters, and the erase of the
copy segment that does not hold the active configuration joins the erase list. -/
def Obligations.FormatBegins : Prop :=
  ∀ (p : Port) (tag : Byte) (s : State), s.admits p .service → s.control.claimant = some p →
    s.control.phase = .active → s.store.lock = false → s.control.frozen.sequence = false →
    s.control.operation = none → s.writer.queue = [] → s.writer.state = .idle →
    (s.port p).lists.reserved + (s.port p).lists.queue.length < 16 → s.cursors.table.length = 12 →
    s.store.active.version < 4294967295 →
    let operation : ServiceOperation := { kind := .format, tag := tag, report := true }
    let copy : Nat := if s.store.selector = .copy0 then 1 else 0
    let closed : Grant :=
      match s.seq.grant with
      | .fetch q (some k) => if s.cursor k = none then .fetch q (some k) else .fetch q none
      | g => g
    ∃ u : State, exec (.format p tag) s = .next u.settle ∧ u.cursors.table = List.replicate 12 none ∧
      (∀ f, f ∈ u.cursors.fetchList ↔ f ∈ s.cursors.fetchList ∧ s.cursor f.id = none) ∧
      (∀ q, u.port q =
        { (s.answered p .queued []).port q with
          lists :=
            (List.range 12).foldl
              (fun l id =>
                match s.cursor id with
                | none => l
                | some c =>
                  if c.owner = q then
                    let l :=
                      match c.state.request with
                      | none => l
                      | some r =>
                        l.post
                          { kind := .readNext, tag := r.tag, outcome := .cancelled, sequence := 0, stream := 0
                            length := 0 }
                    if (s.port q).attached = true then l.addNotice (.cursorClosed id) else l
                  else l)
              (if q = p then { (s.port p).lists with reserved := (s.port p).lists.reserved + 1 }
              else (s.port q).lists) }) ∧
      u.array = s.array ∧ u.segs = s.segs ∧ u.writer = s.writer ∧ u.reclaim = s.reclaim ∧ u.mount = s.mount ∧
      u.tick = s.tick ∧
      ((∃ i, s.openSegment = some i) →
        u.control = { s.control with operation := some operation, format := .seal } ∧ u.store = s.store ∧
          u.seq = { s.seq with grant := closed }) ∧
      (s.openSegment = none →
        u.control = { s.control with operation := some operation, format := .copyWrite } ∧
        u.store =
          { s.store with
            operation := .copyWrite .format .erase
            candidate :=
              some
                { s.store.active with
                  version := s.store.active.version + 1
                  sequenceFloor := s.writer.nextSequence
                  mountFloor := s.mount.number
                  formatCount := min 65535 (s.store.active.formatCount + 1) } } ∧
        u.seq =
          { s.seq with
            grant := closed
            erases := s.seq.erases ++ [{ requester := .store, segment := copy, attempt := 1 }]
            head := if s.seq.erases = [] then .pending else s.seq.head })

/-- R37, R133, step 2, to R134, step 3: the configuration programs of a FORMAT, each in its grant. The OPEN segment is
SEALED with its last sequence, and the copy write begins; a SEALED program that fails is counted, every attached port is
handed MEDIA_FAULT, SEAL, and FORMAT goes on with the segment SEALED in the map. The candidate programmed into its copy
segment is active, with CONFIG_CHANGED to every attached port. Each ring head is marked RETIRE and leaves the ring,
ERASING, whether or not the program verifies (a failed one is counted), and so is a segment that FORMAT has taken, whose
erase is then requested. With the ring empty FORMAT waits for the reclaim unit's erase, and then takes segment 2. -/
def Obligations.FormatSealsAndRetires : Prop :=
  ∀ s : State, s.ArrayOk → s.inReset = false → s.seq.grant = .config → s.segs.map.length = 62 →
    (∀ (i : Nat) (sealFails : Bool), s.control.format = .seal → s.store.operation = .none → s.openSegment = some i →
      2 ≤ i → i ≤ 63 → (s.seg i).last < 281474976710656 → s.array.blank (address i 36) 12 = true →
      s.store.active.version < 4294967295 →
      ∃ m : Memory, (sealFails = false → readSealed m i = .valid ∧ readLast m i = (s.seg i).last) ∧
        (∀ a, (sealFails = true ∨ a < address i 36 ∨ address i 48 ≤ a) → m.read a = s.array.read a) ∧
        exec (.configProgramGrant (if sealFails = true then [.left []] else [])) s =
          .next
            (State.settle
              { (if sealFails = true then s.handAll (.mediaFault i .seal) else s) with
                array := m
                segs :=
                  s.segs.setEntry i
                    { s.seg i with
                      state := .sealed
                      faults := if sealFails = true then min 2 ((s.seg i).faults + 1) else (s.seg i).faults }
                control := { s.control with format := .copyWrite }
                store :=
                  { s.store with
                    operation := .copyWrite .format .erase
                    candidate :=
                      some
                        { s.store.active with
                          version := s.store.active.version + 1
                          sequenceFloor := s.writer.nextSequence
                          mountFloor := s.mount.number
                          formatCount := min 65535 (s.store.active.formatCount + 1) } }
                seq :=
                  { s.seq with
                    grant := .none
                    erases :=
                      s.seq.erases ++
                        [{ requester := .store, segment := if s.store.selector = .copy0 then 1 else 0
                           attempt := 1 }]
                    head := if s.seq.erases = [] then .pending else s.seq.head } })) ∧
    (∀ r : ConfigRecord, s.store.operation = .copyWrite .format .program → s.store.candidate = some r → r.Ok →
      let target := if s.store.selector = .copy0 then 1 else 0
      s.array.blank (address target 0) 40 = true →
      ∃ (m : Memory) (u : State), m.readBytes (address target 0) 40 = r.bytes ∧
        (∀ a, (a < address target 0 ∨ address target 0 + 40 ≤ a) → m.read a = s.array.read a) ∧
        State.FormatGoesOn
          { s.handAll (.configChanged r.version) with
            array := m
            store :=
              { s.store with
                active := r
                selector := if target = 0 then .copy0 else .copy1
                pendingCfg :=
                  s.store.pendingCfg.map fun c =>
                    { c with
                      version := r.version, sequenceFloor := r.sequenceFloor, mountFloor := r.mountFloor
                      formatCount := r.formatCount }
                candidate := none
                operation := .none }
            seq := { s.seq with grant := .none } }
          u ∧
        exec (.configProgramGrant []) s = .next u.settle) ∧
    ∀ (failed : Bool) (i : Nat), 2 ≤ i → i ≤ 63 → s.store.operation = .none →
      (failed = true → s.array.blank (address i 12) 4 = true) →
      let counted : SegEntry :=
        { s.seg i with faults := if failed = true then min 2 ((s.seg i).faults + 1) else (s.seg i).faults }
      ∃ m : Memory, (failed = false → retirePresent m i = true) ∧
        (∀ a, (failed = true ∨ a < address i 12 ∨ address i 16 ≤ a) → m.read a = s.array.read a) ∧
        (∀ rest, s.control.format = .retireRing → s.segs.ring = i :: rest → (∀ id, s.cursor id = none) →
          ∃ u : State, exec (.configProgramGrant (if failed = true then [.left []] else [])) s = .next u.settle ∧
            State.FormatGoesOn
              { s with
                array := m
                segs :=
                  { s.segs.setEntry i
                      { counted with
                        state := .erasing, generation := 0, first := 0, last := 0, fill := none, bad := none } with
                    ring := rest }
                seq := { s.seq with grant := .none } }
              u) ∧
        ∀ wasBad, s.control.format = .retireSegment i wasBad →
          exec (.configProgramGrant (if failed = true then [.left []] else [])) s =
            .next
              (State.settle
                { s with
                  array := m
                  segs := s.segs.setEntry i counted
                  control := { s.control with format := .erase i wasBad }
                  seq :=
                    { s.seq with
                      grant := .none
                      erases := s.seq.erases ++ [{ requester := .format, segment := i, attempt := 1 }]
                      head := if s.seq.erases = [] then .pending else s.seq.head } })

/-- R39 to R41, R123, R134, R135: an erase of FORMAT, and what FORMAT then goes on to. One that the array ends wholly
erased, below the endurance limit, makes the segment FREE, in the pool at the place its count and index give, also one
that was BAD, which the usable count then counts again; with the new count at the limit it is BAD, WORN, and one that was not BAD, with two program faults, BAD,
PROGRAM_FAIL. One whose verify fails is tried a second time unless the segment was BAD; then it is BAD: for ERASE_FAIL,
or, taken from BAD, for the reason it was BAD for, its mark programmed only if the BAD group is erased. A segment that
was not BAD before takes one from the usable count; its fall from 8 to 7 adds MEDIA to the frozen cause and puts the
part in FROZEN (a further fall adds no cause, log 23). For one that was BAD the count stays (log 17), and its notice is
log 18. FORMAT takes the next segment, or after segment 63 ends its erases. -/
def Obligations.FormatErasesAndEnds : Prop :=
  ∀ (i n attempt o : Nat) (b : Byte) (wasBad : Option BadReason) (rest : List Erase) (op : ServiceOperation) (p : Port)
    (s : State), s.ArrayOk → s.inReset = false →
    s.seq.erases = { requester := .format, segment := i, attempt := attempt } :: rest → s.seq.head = .active →
    s.control.format = .erase i wasBad → s.control.operation = some op → s.control.claimant = some p →
    s.writer.queue = [] → s.writer.state = .idle → 2 ≤ i → i ≤ 63 → s.segs.map.length = 62 →
    let goesOn (t : State) (media : List Programmed) (result : Erased) : Prop :=
      ∃ u : State, exec (.eraseAttemptEnd result media) s = .next u.settle ∧
        (i < 63 → t.TakesSegment u (i + 1)) ∧
        (i = 63 → s.writer.nextSequence ≠ 281474976710655 → s.control.phase ≠ .ending → t.FormatEnds u p op)
    let ended : Sequencer := { s.seq with erases := rest, head := .pending, slice := .stopped }
    let becomesBad (m : Memory) (told : State) (count : Option Nat) (reason : BadReason) : State :=
      let usable := if wasBad = none then s.segs.usable - 1 else s.segs.usable
      let t : State :=
        { told with
          array := m
          segs :=
            { s.segs.setEntry i { s.seg i with state := .bad, eraseCount := count, bad := some reason } with
              usable := usable }
          seq := ended }
      let caused : State :=
        { t with control := { t.control with frozen := { s.control.frozen with media := true }, mode := .frozen } }
      if wasBad ≠ none ∨ s.segs.usable ≠ 8 then t
      else if s.control.mode = .frozen then caused
      else
        State.handAll { caused with writer := { s.writer with pressure := .none, holdTimer := none } }
          (.modeChanged .frozen .media)
    let falls : Prop := wasBad = none ∧ s.segs.usable = 8
    (∀ usable, (s.seg i).eraseCount = some n → n + 1 < 100000 → (wasBad = none → (s.seg i).faults < 2) →
      usable = (if wasBad = none then s.segs.usable else s.segs.usable + 1) →
      ∃ (m : Memory) (pool : List Nat),
        readErased m i = .valid ∧ readEraseCount m i = n + 1 ∧
        (∀ a, (a < address i 0 ∨ address (i + 1) 0 ≤ a) → m.read a = s.array.read a) ∧
        (let segs : SegmentManager :=
          { s.segs.setEntry i
              { s.seg i with state := .free, eraseCount := some (n + 1), faults := 0, bad := none } with
            pool := pool, usable := usable }
         s.segs.JoinsPool segs i ∧ goesOn { s with array := m, segs := segs, seq := ended } [] .clean)) ∧
    ((s.seg i).eraseCount = some n → n + 1 < 16777216 →
      (100000 ≤ n + 1 ∨ (wasBad = none ∧ (s.seg i).faults = 2)) →
      (falls → s.control.mode ≠ .mounting ∧ s.control.phase ≠ .draining) →
      let reason : BadReason := if 100000 ≤ n + 1 then .worn else .programFail
      ∃ m : Memory, readErased m i = .valid ∧ readEraseCount m i = n + 1 ∧ badPresent m i = true ∧
        readBadReason m i = reason ∧
        (∀ a, (a < address i 0 ∨ address (i + 1) 0 ≤ a) → m.read a = s.array.read a) ∧
        goesOn
          (becomesBad m (s.handAll (.mediaFault i (if 100000 ≤ n + 1 then .worn else .programFail))) (some (n + 1))
            reason)
          [] .clean) ∧
    (o < 65536 → b ≠ 0xFF →
      let left := s.array.eraseSegment i (.left [(o, b)])
      (wasBad = none → attempt = 1 → ∀ media,
        exec (.eraseAttemptEnd (.left [(o, b)]) media) s =
          .next
            { s with
              array := left
              seq :=
                { s.seq with
                  erases := { requester := .format, segment := i, attempt := 2 } :: rest
                  slice := .running s.store.active.eraseSlice } }) ∧
      (wasBad = none → attempt = 2 → (falls → s.control.mode ≠ .mounting ∧ s.control.phase ≠ .draining) →
        ∃ m : Memory, badPresent m i = true ∧
          (∀ a, (a < address i 48 ∨ address i 56 ≤ a) → m.read a = left.read a) ∧
          goesOn (becomesBad m (s.handAll (.mediaFault i .eraseFail)) (s.seg i).eraseCount .eraseFail) []
            (.left [(o, b)])) ∧
      ∀ reason, wasBad = some reason →
        ∃ m : Memory, badPresent m i = true ∧ (badPresent left i = true → m = left) ∧
          (badPresent left i = false → readBadReason m i = reason) ∧
          (∀ a, (a < address i 48 ∨ address i 56 ≤ a) → m.read a = left.read a) ∧
          goesOn
            (becomesBad m
              (s.handAll
                (.mediaFault i
                  (match reason with
                  | .eraseFail => .eraseFail
                  | .programFail => .programFail
                  | .worn => .worn)))
              (s.seg i).eraseCount reason)
            [] (.left [(o, b)]))

/-- R133, R146, R149: a copy write fails: when the erase of the copy segment does not verify, which is tried once; when a
program of the candidate fails its verify; and, for a FORMAT, at once and with no erase or program when the active version
cannot rise. -/
def Obligations.CopyWritesFail : Prop :=
  ∀ (p : Port) (op : ServiceOperation) (s : State), s.ArrayOk → s.inReset = false →
    let target := if s.store.selector = .copy0 then 1 else 0
    (s.control.operation = some op → s.control.claimant = some p →
      (∀ (o : Nat) (b : Byte) (media : List Programmed) (rest : List Erase),
        s.store.operation = .copyWrite op.kind .erase →
        s.seq.erases = { requester := .store, segment := target, attempt := 1 } :: rest → s.seq.head = .active →
        o < 65536 → b ≠ 0xFF →
        ∃ u : State, exec (.eraseAttemptEnd (.left [(o, b)]) media) s = .next u.settle ∧ s.CopyWriteFailed u p op target ∧
          u.seq = { s.seq with erases := rest, head := .pending, slice := .stopped } ∧
          ∀ a, (a < address target 0 ∨ address (target + 1) 0 ≤ a) → u.array.read a = s.array.read a) ∧
      (∀ r : ConfigRecord, s.store.operation = .copyWrite op.kind .program → s.store.candidate = some r →
        s.seq.grant = .config → s.array.blank (address target 0) 40 = true → r.Ok →
        ∃ u : State, exec (.configProgramGrant [.left []]) s = .next u.settle ∧ s.CopyWriteFailed u p op target ∧
          u.seq = { s.seq with grant := .none } ∧ ∀ a, u.array.read a = s.array.read a)) ∧
    (s.admits p .service → s.control.claimant = some p → s.control.phase = .active → s.store.lock = false →
      s.control.frozen.sequence = false → s.control.operation = none → s.writer.queue = [] →
      s.writer.state = .idle → (s.port p).lists.reserved + (s.port p).lists.queue.length < 16 →
      s.openSegment = none → (∀ id, s.cursor id = none) → s.store.active.version = 4294967295 →
      op.kind = .format → op.report = true →
      ∃ u : State, exec (.format p op.tag) s = .next u.settle ∧ u.seq = s.seq ∧ u.array = s.array ∧
        State.CopyWriteFailed
          { (s.answered p .queued []).modLists p fun l => { l with reserved := l.reserved + 1 } with
            control := { s.control with operation := some op } }
          u p op target)

/-! ### The configuration store -/

/-- R141: READ CONFIG answers the record named with its CRC, the copy selector and the lock, and changes nothing. R150:
LOCK CONFIG, from a port in the service rights, sets the lock and nothing else, whoever holds the claim; no other command
clears it until the end of a reset. R142, R143: an edit by the claimant in phase ACTIVE, unlocked and with nothing in
flight, changes the pending configuration alone: one stream's entry, the service rights, or the four policy values at once;
an operand out of its range is refused and changes nothing. (That EDIT STREAM looks at the stream first is log 16.) -/
def Obligations.ConfigurationCommands : Prop :=
  (
  (∀ (p : Port) (which : Byte) (s : State), s.admits p .other →
    exec (.readConfig p which) s =
        .next
          (if 1 < which.toNat then s.answered p .badValue []
          else
            match if which = 0x00 then some s.store.active else s.store.pendingCfg with
            | none => s.answered p .wrongMode []
            | some r =>
              s.answered p .ok
                (r.body ++ be 4 (crc32 r.body).toNat ++ [s.store.selector.byte, yesNo s.store.lock])) ∧
      exec (.lockConfig p) s =
        .next
          (if s.store.active.rights.has p = true then
            { s.answered p .ok [] with store := { s.store with lock := true } }
          else s.answered p .noRight [])) ∧
    ∀ (c : Instr) (s t : State), exec c s = .next t → s.store.lock = true → c ≠ .resetReleased →
      t.store.lock = true) ∧
  ∀ (p : Port) (r : ConfigRecord) (a b c d : Byte) (s : State), s.admits p .service →
    s.control.claimant = some p → s.control.phase = .active → s.store.lock = false → s.control.operation = none →
    s.store.pendingCfg = some r →
    let ok (r : ConfigRecord) : State :=
      { s.answered p .ok [] with store := { s.store with pendingCfg := some r } }
    exec (.editStream p a b c) s =
        .next
          (if a.toNat = 0 ∨ 15 < a.toNat then s.answered p .badStream []
          else if 7 < b.toNat ∨ 1 < c.toNat then s.answered p .badValue []
          else
            ok
              { r with
                streams :=
                  r.streams.set a.toNat
                    { writers := { a := b.getLsbD 0, b := b.getLsbD 1, c := b.getLsbD 2 }, closed := c = 0x01 } }) ∧
      exec (.editRights p a) s =
        .next
          (if 7 < a.toNat ∨ a = 0 then s.answered p .badValue []
          else ok { r with rights := { a := a.getLsbD 0, b := a.getLsbD 1, c := a.getLsbD 2 } }) ∧
      exec (.editPolicy p a b c d) s =
        .next
          (if 2 < a.toNat ∨ b = 0 ∨ c.toNat < 2 ∨ 8 < c.toNat ∨ d = 0 ∨ 16 < d.toNat then
            s.answered p .badValue []
          else
            ok
              { r with
                policy := if a = 0x00 then .hold else if a = 0x01 then .refuse else .demote
                holdLimit := b.toNat, freeTarget := c.toNat, eraseSlice := d.toNat })

/-- R144: COMMIT CONFIG by the claimant in phase ACTIVE, unlocked and with nothing in flight: BAD_VALUE when the version
cannot rise, then NO_SLOT; accepted, the operation is recorded with its slot and the copy write of the candidate begins
with the erase of the copy segment that does not hold the active configuration. -/
def Obligations.CommitConfigBeginsTheCopyWrite : Prop :=
  ∀ (p : Port) (tag : Byte) (r : ConfigRecord) (s : State), s.admits p .service → s.control.claimant = some p →
    s.control.phase = .active → s.store.lock = false → s.control.operation = none → s.store.pendingCfg = some r →
    (s.store.active.version = 4294967295 → exec (.commitConfig p tag) s = .next (s.answered p .badValue [])) ∧
    (s.store.active.version ≠ 4294967295 → 16 ≤ (s.port p).lists.reserved + (s.port p).lists.queue.length →
      exec (.commitConfig p tag) s = .next (s.answered p .noSlot [])) ∧
    (s.store.active.version ≠ 4294967295 → (s.port p).lists.reserved + (s.port p).lists.queue.length < 16 →
      let u :=
        (s.answered p .queued []).modLists p fun l => { l with reserved := l.reserved + 1 }
      exec (.commitConfig p tag) s =
        .next
          (State.settle
            { u with
              control :=
                { s.control with operation := some { kind := .commitConfig, tag := tag, report := true } }
              store :=
                { s.store with
                  operation := .copyWrite .commitConfig .erase
                  candidate :=
                    some
                      { r with
                        version := s.store.active.version + 1
                        sequenceFloor := s.store.active.sequenceFloor
                        mountFloor := s.store.active.mountFloor
                        formatCount := s.store.active.formatCount } }
              seq :=
                { s.seq with
                  erases :=
                    s.seq.erases ++
                      [{ requester := .store, segment := if s.store.selector = .copy0 then 1 else 0, attempt := 1 }]
                  head := if s.seq.erases = [] then .pending else s.seq.head } }))

/-- R145, R147: the configuration program of a COMMIT CONFIG over an erased copy segment, carried out by the array: the
whole record stands at the start of the target segment and no other byte changes; the candidate is active, the selector
names the target, the pending configuration takes its version, floors and format count, CONFIG_CHANGED is handed to every
attached port, and the CONFIG record's entry is in the append queue. -/
def Obligations.ConfigurationIsActivated : Prop :=
  ∀ (r : ConfigRecord) (s : State), s.ArrayOk → s.inReset = false → s.seq.grant = .config →
    s.store.operation = .copyWrite .commitConfig .program → s.store.candidate = some r → r.Ok →
    s.writer.queue = [] → s.writer.nextSequence ≠ 281474976710655 → 1 < s.segs.pool.length →
    (let target := if s.store.selector = .copy0 then 1 else 0
     s.array.blank (address target 0) 40 = true →
      ∃ u : State, exec (.configProgramGrant []) s = .next u.settle ∧
        u.array.readBytes (address target 0) 40 = r.bytes ∧
        (∀ a, (a < address target 0 ∨ address target 0 + 40 ≤ a) → u.array.read a = s.array.read a) ∧
        u.store =
          { s.store with
            active := r
            selector := if target = 0 then .copy0 else .copy1
            pendingCfg :=
              s.store.pendingCfg.map fun c =>
                { c with
                  version := r.version
                  sequenceFloor := r.sequenceFloor
                  mountFloor := r.mountFloor
                  formatCount := r.formatCount }
            candidate := none
            operation := .copyWrite .commitConfig .record } ∧
        (∃ crc, u.writer =
          { s.writer with
            queue :=
              [{ kind := .config
                 source := .part (be 4 r.version ++ [optionalPortByte s.control.claimant, 0x00, 0x00, 0x00])
                 stream := 0, length := 8, crc := crc }]
            state := .requesting, pressure := .none, holdTimer := none }) ∧
        (∀ q, u.port q = (s.handAll (.configChanged r.version)).port q) ∧ u.cursors = s.cursors ∧
        u.segs = s.segs ∧ u.seq = { s.seq with grant := .none } ∧ u.reclaim = s.reclaim ∧
        u.control = s.control ∧ u.mount = s.mount ∧ u.tick = s.tick)

/-! ### Reclaim -/

/-- R94 to R96, R98, R101, R103, R110, R113: a retire request at a free array. While R95's conditions hold the array is kept
for it; with one of them gone it ends at once, the reclaim unit is IDLE, the pressure is decided afresh, and the next
decision follows. The grant is its event, which examines the conditions again: with one of them gone it ends in the same
way, whatever command took it away; else it chooses the head of the dirty list before the ring head (for which
RetireGrantRetiresTheRingHead stands). The DIRTY segment is marked RETIRE unless its RETIRE word is already changed, a
failed program is counted and the retire goes on; the segment leaves the dirty list, ERASING. Either the grant holds the
array on, or it ends, and the erase is requested as a first attempt. At the end of a grant that held on, the erase request
joins the tail of the erase list: an erase of FORMAT or of the configuration store that has arrived during the grant stays
the head. (That a command taken before the event stands between request and grant, and that the event says whether the grant
holds on, is log 12; the order of several notices to one port, and that of several requests which one command brings to a
free array, are the model's choice, logs 30 and 32.) -/
def Obligations.RetireGrantChoosesItsTarget : Prop :=
  ∀ s : State,
    (s.arrayFree = true → s.reclaim = .selecting →
      (s.WantsRetire → s.settle = { s with seq := { s.seq with grant := .retire } }) ∧
      (¬ s.WantsRetire → ∃ t : State, State.Redecides { s with reclaim := .idle } t ∧ s.settle = t.settle)) ∧
    (s.inReset = false → s.seq.grant = .retire →
      (¬ s.WantsRetire → ∀ media holds,
        ∃ t : State, exec (.retireGrant ⟨media, holds⟩) s = .next t.settle ∧
          State.Redecides { s with reclaim := .idle, seq := { s.seq with grant := .none } } t) ∧
      ∀ (i : Nat) (rest : List Nat) (media : List Programmed), s.ArrayOk → s.WantsRetire → s.segs.dirty = i :: rest →
        2 ≤ i → i ≤ 63 → s.segs.map.length = 62 →
        let marked := retirePresent s.array i
        let failed : Prop := marked = false ∧ media = [.left []]
        (marked = true ∨ media = [] ∨ media = [.left []]) →
        ∃ m : Memory,
          (∀ a, (marked = true ∨ a < address i 12 ∨ address i 16 ≤ a) → m.read a = s.array.read a) ∧
          (¬ failed → retirePresent m i = true) ∧ (failed → retirePresent m i = false) ∧
          ∃ faults, (failed → faults = min 2 ((s.seg i).faults + 1)) ∧ (¬ failed → faults = (s.seg i).faults) ∧
            let taken : State :=
              { s with
                array := m
                segs :=
                  { s.segs.setEntry i
                      { s.seg i with
                        state := .erasing, generation := 0, first := 0, last := 0, fill := none, bad := none
                        faults := faults } with
                    dirty := rest }
                reclaim := .erasing i .dirty 1
                seq := { s.seq with grant := .retiring } }
            exec (.retireGrant ⟨media, true⟩) s = .next taken ∧
              exec (.retireGrant ⟨media, false⟩) s =
                .next
                  (State.settle
                    { taken with
                      seq :=
                        { s.seq with
                          grant := .none, erases := [{ requester := .reclaim, segment := i, attempt := 1 }]
                          head := .pending } })) ∧
    ∀ i source media, s.inReset = false → s.seq.grant = .retiring → s.reclaim = .erasing i source 1 →
      exec (.retireGrant ⟨media, true⟩) s = .next s ∧
        exec (.retireGrant ⟨media, false⟩) s =
          .next
            (State.settle
              { s with
                seq :=
                  { s.seq with
                    grant := .none
                    erases := s.seq.erases ++ [{ requester := .reclaim, segment := i, attempt := 1 }]
                    head := if s.seq.erases = [] then .pending else s.seq.head } })

/-- R29, R69, R87, R97, R102: the retire of the ring head, in its grant. Its RETIRE mark is programmed; a failed program is
counted and the retire goes on. The segment leaves the ring, ERASING, and every hint into it is dropped. The LOSSY cursors
below the overtake position are moved up to it with a CURSOR_OVERRUN notice each, RETAINING cursors below the new oldest
boundary rise to it, and a waiting head waits for the space to come. Either the grant holds the array on, or it ends, and the
erase is requested as a first attempt. (That the event is the grant, and says whether it holds on, is log 12; the order of
several notices to one port is the model's choice, log 30.) -/
def Obligations.RetireGrantRetiresTheRingHead : Prop :=
  ∀ (failed : Bool) (i next : Nat) (rest : List Nat) (s : State), s.ArrayOk → s.inReset = false →
    s.seq.grant = .retire → s.WantsRetire → s.segs.dirty = [] → s.segs.ring = i :: next :: rest → next ≠ i →
    2 ≤ i → i ≤ 63 → s.segs.map.length = 62 → s.cursors.table.length = 12 →
    s.array.blank (address i 12) 4 = true →
    let place := s.overtakePosition i next
    let boundary := min ((s.seg next).first - 1) s.writer.newestDurable
    let overrun (c : Cursor) : Bool := c.mode = .lossy && c.delivered < place
    let media : List Programmed := if failed = true then [.left []] else []
    ∃ t : State, exec (.retireGrant ⟨media, true⟩) s = .next t ∧
      exec (.retireGrant ⟨media, false⟩) s =
        .next
          (State.settle
            { t with
              seq :=
                { s.seq with
                  grant := .none, erases := [{ requester := .reclaim, segment := i, attempt := 1 }]
                  head := .pending } }) ∧
      (failed = false → retirePresent t.array i = true) ∧
      (∀ a, (failed = true ∨ a < address i 12 ∨ address i 16 ≤ a) → t.array.read a = s.array.read a) ∧
      t.segs =
        { s.segs.setEntry i
            { s.seg i with
              state := .erasing, generation := 0, first := 0, last := 0, fill := none, bad := none
              faults := if failed = true then min 2 ((s.seg i).faults + 1) else (s.seg i).faults } with
          ring := next :: rest } ∧
      t.oldest = boundary ∧ t.reclaim = .erasing i .ring 1 ∧
      t.seq = { s.seq with grant := .retiring } ∧
      (∀ id, id < 12 → t.cursor id =
        (s.cursor id).map fun c =>
          match c.mode with
          | .lossy =>
            if c.delivered < place then
              { c with
                delivered := place, acked := max c.acked place, hint := none, overrun := min 255 (c.overrun + 1) }
            else
              { c with
                acked := max c.acked place
                hint := c.hint.bind fun h => if h.segment = i then none else some h }
          | .retaining =>
            { c with
              delivered := max c.delivered boundary
              acked := max c.acked boundary
              hint := c.hint.bind fun h => if h.segment = i then none else some h }) ∧
      (∀ q, t.port q =
        { s.port q with
          lists :=
            if (s.port q).attached = true then
              ((List.range 12).filter fun id =>
                match s.cursor id with
                | none => false
                | some c => c.owner = q && overrun c).foldl
              (fun l id => l.addNotice (.cursorOverrun id place)) (s.port q).lists
            else (s.port q).lists }) ∧
      t.writer =
        (if s.writer.state = .waiting then { s.writer with pressure := .waiting, holdTimer := none }
        else s.writer) ∧
      t.cursors.fetchList = s.cursors.fetchList ∧ t.control = s.control ∧ t.store = s.store ∧ t.mount = s.mount ∧
      t.tick = s.tick

/-- R28, R30, R38, R39, R100, R116: an erase of the reclaim unit that the array ends wholly erased. The erase count
written is the known count plus 1, or one more than the highest known count when it is unknown. At the endurance limit the
segment is BAD, WORN, and with two program faults BAD, PROGRAM_FAIL: its BAD mark stands, every attached port is handed
MEDIA_FAULT, and the usable count falls. Otherwise it is FREE and joins the pool at the place its count and index give, the
others as they stood, and a head that waited for it goes on. The reclaim unit is IDLE again. (A usable count that falls from 8 is in FailedErasesAreTriedTwice; that a further fall below 8
adds no cause is read from R41, log 23.) -/
def Obligations.ErasedSegmentsReturnToThePool : Prop :=
  ∀ (i attempt : Nat) (source : TargetSource) (rest : List Erase) (s : State), s.ArrayOk → s.inReset = false →
    s.seq.erases = { requester := .reclaim, segment := i, attempt := attempt } :: rest → s.seq.head = .active →
    s.reclaim = .erasing i source attempt → s.control.format = .none → 2 ≤ i → i ≤ 63 →
    s.segs.map.length = 62 →
    let n := (s.seg i).eraseCount.getD ((s.segs.map.map fun e => e.eraseCount.getD 0).foldl max 0) + 1
    n < 16777216 →
    let reason : BadReason := if 100000 ≤ n then .worn else .programFail
    let kept : SegEntry := { s.seg i with eraseCount := some n }
    ∃ u : State, exec (.eraseAttemptEnd .clean []) s = .next u.settle ∧
      readErased u.array i = .valid ∧ readEraseCount u.array i = n ∧
      (∀ a, (a < address i 0 ∨ address (i + 1) 0 ≤ a) → u.array.read a = s.array.read a) ∧
      u.seq.erases = rest ∧ u.seq.head = .pending ∧ u.seq.slice = .stopped ∧ u.reclaim = .idle ∧
      ((n < 100000 ∧ (s.seg i).faults ≠ 2) →
        (∀ o, 10 ≤ o → o < 65536 → u.array.read (address i o) = 0xFF) ∧
        u.segs =
          { s.segs.setEntry i { kept with state := .free, faults := 0, bad := none } with pool := u.segs.pool } ∧
        s.segs.JoinsPool u.segs i ∧
        (s.writer.state ≠ .waiting → u.writer = s.writer) ∧
        (s.writer.state = .waiting → s.segs.pool ≠ [] → s.writer.queue ≠ [] →
          s.writer.nextSequence ≠ 281474976710655 →
          u.writer = { s.writer with state := .requesting, pressure := .none, holdTimer := none }) ∧
        ((s.writer.state ≠ .waiting ∨
            (s.segs.pool ≠ [] ∧ s.writer.queue ≠ [] ∧ s.writer.nextSequence ≠ 281474976710655)) →
          (∀ q, u.port q = s.port q) ∧ u.cursors = s.cursors ∧ u.control = s.control ∧ u.store = s.store ∧
            u.mount = s.mount ∧ u.tick = s.tick)) ∧
      ((100000 ≤ n ∨ (s.seg i).faults = 2) → s.segs.usable ≠ 8 → s.writer.state ≠ .waiting →
        badPresent u.array i = true ∧ readBadReason u.array i = reason ∧
        u.segs =
          { s.segs.setEntry i { kept with state := .bad, bad := some reason } with usable := s.segs.usable - 1 } ∧
        (∀ q, u.port q = (s.handAll (.mediaFault i (if 100000 ≤ n then .worn else .programFail))).port q) ∧
        u.writer = s.writer ∧ u.cursors = s.cursors ∧ u.control = s.control ∧ u.store = s.store ∧
        u.mount = s.mount ∧ u.tick = s.tick)

/-- R39, R41, R65, R99, R100, R116, R123: an erase of the reclaim unit whose verify fails. A first attempt is followed by a
second, as the same erase, with a full slice, and nothing else changes but the bytes of the segment. After a second the
segment is BAD for ERASE_FAIL and marked so, every attached port is handed MEDIA_FAULT, the usable count falls by one, and
its fall below 8 freezes the part with its queue flushed. (That a further fall below 8 adds no cause is read from R41,
log 23.) -/
def Obligations.FailedErasesAreTriedTwice : Prop :=
  ∀ (i o attempt : Nat) (b : Byte) (source : TargetSource) (rest : List Erase) (s : State), s.ArrayOk →
    s.inReset = false →
    s.seq.erases = { requester := .reclaim, segment := i, attempt := attempt } :: rest → s.seq.head = .active →
    s.reclaim = .erasing i source attempt → s.control.format = .none → 2 ≤ i → i ≤ 63 → s.segs.map.length = 62 →
    o < 65536 → b ≠ 0xFF →
    (attempt = 1 → ∀ media,
      exec (.eraseAttemptEnd (.left [(o, b)]) media) s =
        .next
          { s with
            array := s.array.eraseSegment i (.left [(o, b)])
            reclaim := .erasing i source 2
            seq :=
              { s.seq with
                erases := { requester := .reclaim, segment := i, attempt := 2 } :: rest
                slice := .running s.store.active.eraseSlice } }) ∧
    (attempt = 2 →
      ∃ u : State, exec (.eraseAttemptEnd (.left [(o, b)]) []) s = .next u.settle ∧
        u.segs =
          { s.segs.setEntry i { s.seg i with state := .bad, bad := some .eraseFail } with
            usable := s.segs.usable - 1 } ∧
        badPresent u.array i = true ∧
        (∀ a, (a < address i 0 ∨ address (i + 1) 0 ≤ a) → u.array.read a = s.array.read a) ∧
        u.writer.nextSequence = s.writer.nextSequence ∧ u.writer.newestDurable = s.writer.newestDurable ∧
        u.tick = s.tick ∧ u.reclaim = .idle ∧ u.seq.erases = rest ∧ u.seq.head = .pending ∧
        u.seq.slice = .stopped ∧
        (s.segs.usable ≠ 8 → s.writer.state ≠ .waiting →
          (∀ q, u.port q = (s.handAll (.mediaFault i .eraseFail)).port q) ∧ u.writer = s.writer ∧
            u.control = s.control ∧ u.cursors = s.cursors ∧ u.store = s.store ∧ u.mount = s.mount) ∧
        (s.segs.usable = 8 → s.control.mode = .run → s.writer.state ≠ .writing →
          s.writer.nextSequence ≠ 281474976710655 →
          u.control.mode = .frozen ∧ u.control.frozen = { s.control.frozen with media := true } ∧
            u.writer.queue = [] ∧ u.writer.state = .idle ∧ u.writer.pressure = .none))

/-! ### Mount -/

/-- R153, R155, R160 to R163: what the mount scan comes to. The valid copy with the higher version is active, the defaults
without one (copy 0 of two equal versions is the model's choice, log 31). The next sequence number is the highest of the
sequence floor, of one more than the sequence number of a record read, and of one more than the number presumed for a record
that cannot be read; where that reaches 2^48 minus 1 it is 2^48 minus 1. The newest durable sequence number is the highest
of a DURABLE record, or the floor minus 1 where no DURABLE record was read. The mount number is one more than the highest of
the mount floor, of the OPENED groups and of the records read, and stops at 65535. The generation counter is one more than
the highest generation, or 1. The phase leaves SCANNING: the MOUNT record's entry is in the queue when it fits in the OPEN
segment or a segment is FREE; without such space, and with exhausted sequence numbers, mount ends without a MOUNT record, in
FROZEN with a frozen cause and else in RUN. -/
def Obligations.MountScanLoadsAndCounts : Prop :=
  ∀ (media : List Programmed) (s : State), s.ArrayOk → s.inReset = false → s.mount.phase = .scanning → s.ScanOk →
    let m := s.array
    ∃ u : State, exec (.mountScan media) s = .next u.settle ∧
      (u.store.active, u.store.selector) =
        (match readCopy m 0, readCopy m 1 with
        | none, none => (ConfigRecord.defaults, .default)
        | some c, none => (c, .copy0)
        | none, some c => (c, .copy1)
        | some c0, some c1 => if c0.version < c1.version then (c1, .copy1) else (c0, .copy0)) ∧
      (let reaches (n : Nat) : Prop :=
        n = u.store.active.sequenceFloor ∨ (∃ i line h, RingSegment m i ∧ ScanReads m i line h ∧ n = h.sequence + 1) ∨
          ∃ i line, RingSegment m i ∧ ScanStops m i line ∧
            ((line = 4 ∧ n = readFirst m i + 1) ∨ ∃ line' h, ScanReads m i line' h ∧ n = h.sequence + 2)
       (∀ n, reaches n → min 281474976710655 n ≤ u.writer.nextSequence) ∧
        ∃ n, reaches n ∧ u.writer.nextSequence = min 281474976710655 n) ∧
      (let found (n : Nat) : Prop :=
        ∃ i line h, RingSegment m i ∧ ScanReads m i line h ∧ recordAt m i line = .durable h ∧ h.sequence = n
       (∀ n, found n → n ≤ u.writer.newestDurable) ∧
        (found u.writer.newestDurable ∨
          (u.writer.newestDurable = u.store.active.sequenceFloor - 1 ∧ ∀ n, ¬ found n))) ∧
      (let reaches (n : Nat) : Prop :=
        n = u.store.active.mountFloor ∨ (∃ i, 2 ≤ i ∧ i ≤ 63 ∧ readOpened m i = .valid ∧ n = readOpenedMount m i) ∨
          ∃ i line h, RingSegment m i ∧ ScanReads m i line h ∧ n = h.mountNumber
       (∀ n, reaches n → min 65535 (n + 1) ≤ u.mount.number) ∧
        ∃ n, reaches n ∧ u.mount.number = min 65535 (n + 1)) ∧
      u.mount.findings.mountNumber = u.mount.number ∧
      ((∀ i, 2 ≤ i → i ≤ 63 → readOpened m i = .valid → readGeneration m i < 4294967295) →
        (∀ i, 2 ≤ i → i ≤ 63 → readOpened m i = .valid → readGeneration m i < u.segs.generation) ∧
          (u.segs.generation = 1 ∨
            ∃ i, 2 ≤ i ∧ i ≤ 63 ∧ readOpened m i = .valid ∧ u.segs.generation = readGeneration m i + 1)) ∧
      u.seq = { s.seq with grant := .none } ∧ u.cursors = s.cursors ∧ u.tick = s.tick ∧
      (let space := (∃ i line, u.RoomFor 12 i line) ∨ u.segs.pool ≠ []
       let causes : FrozenCause :=
        { media := s.control.frozen.media || u.segs.usable < 8
          sequence := s.control.frozen.sequence || u.writer.nextSequence = 281474976710655 }
       let frozen := causes.media = true ∨ causes.sequence = true
       (u.writer.nextSequence = 281474976710655 ∨ ¬ space →
        u.mount.phase = .ended ∧ u.writer.queue = [] ∧ u.writer.state = .idle ∧ u.mount.findings.causes = causes ∧
          u.mount.findings.recordSequence = 0 ∧
          u.control = { s.control with frozen := causes, mode := if frozen then .frozen else .run }) ∧
       (u.writer.nextSequence ≠ 281474976710655 → space →
        u.mount.phase = .recording ∧ u.control = s.control ∧ u.writer.state = .requesting ∧
          ∃ crc, u.writer.queue =
            [{ kind := .mount, source := .part (mountPayload u.mount.findings), stream := 0, length := 12
               crc := crc }]))

/-- R154, R155, R156: what the mount scan makes of the segment headers, by the first row of the class table that applies:
BAD, with its reason; DIRTY; FREE; and the ring segments, SEALED in the map but for one that may be OPEN. The erase count
is that of a valid ERASED group outside DIRTY; the pool holds the FREE segments, the dirty list the DIRTY ones in ascending
order, the ring the ring segments in ascending order of generation; the usable count is 62 minus the BAD, and the findings
count the classes and name the source of the configuration. -/
def Obligations.MountScanClassifies : Prop :=
  ∀ (media : List Programmed) (s : State), s.inReset = false → s.mount.phase = .scanning → s.ScanOk →
    let m := s.array
    let erased (i : Nat) : Option Nat := if readErased m i = .valid then some (readEraseCount m i) else none
    let dirty (i : Nat) : Bool :=
      !badPresent m i &&
        (retirePresent m i || readErased m i ≠ .valid || readOpened m i = .damaged ||
          (readOpened m i = .absent && readSealed m i ≠ .absent))
    let free (i : Nat) : Bool :=
      !badPresent m i && !retirePresent m i && readErased m i = .valid && readOpened m i = .absent &&
        readSealed m i = .absent
    ∃ u : State, exec (.mountScan media) s = .next u.settle ∧ u.segs.map.length = 62 ∧
      (∀ i, 2 ≤ i → i ≤ 63 →
        (badPresent m i = true →
          u.seg i =
            { state := .bad, generation := 0, first := 0, last := 0, fill := none, eraseCount := erased i
              faults := 0, bad := some (readBadReason m i) }) ∧
        (dirty i = true →
          u.seg i =
            { state := .dirty, generation := 0, first := 0, last := 0, fill := none, eraseCount := none
              faults := 0, bad := none }) ∧
        (free i = true →
          u.seg i =
            { state := .free, generation := 0, first := 0, last := 0, fill := none, eraseCount := erased i
              faults := 0, bad := none }) ∧
        (RingSegment m i →
          ((u.seg i).state = .sealed ∨ (u.seg i).state = .open) ∧ (u.seg i).generation = readGeneration m i ∧
            (u.seg i).first = readFirst m i ∧ (u.seg i).eraseCount = erased i ∧ (u.seg i).bad = none ∧
            (readSealed m i = .valid →
              (u.seg i).state = .sealed ∧ (u.seg i).last = readLast m i ∧ (u.seg i).fill = none) ∧
            (readSealed m i = .damaged → (u.seg i).state = .sealed))) ∧
      u.segs.dirty = (List.range' 2 62).filter dirty ∧
      (∀ i, i ∈ u.segs.pool ↔ (2 ≤ i ∧ i ≤ 63) ∧ free i = true) ∧
      u.segs.pool.Pairwise (fun i j => (erased i).getD 0 < (erased j).getD 0 ∨ (erased i = erased j ∧ i < j)) ∧
      (∀ i, i ∈ u.segs.ring ↔ RingSegment m i) ∧
      u.segs.ring.Pairwise (fun i j => readGeneration m i ≤ readGeneration m j) ∧
      u.segs.usable + ((List.range' 2 62).filter fun i => badPresent m i).length = 62 ∧
      u.mount.findings.dirty = u.segs.dirty.length ∧ u.mount.findings.bad = 62 - u.segs.usable ∧
      u.mount.findings.service = u.segs.usable ∧ u.mount.findings.source = u.store.selector

/-- R36, R37, R156 to R159: what the mount scan makes of the records of the ring segments, whichever of its programs fail.
It programs VOID on every TORN record, and SEALED on every open candidate that is not the newest ring segment or whose
records end at one that cannot be read, segment by segment in the order of the ring, SEALED after the records. The finding
"torn records voided" counts the VOID programs, whatever their result, to 65535. A failed program raises the fault count of
its segment, to 2, and hands every attached port MEDIA_FAULT, RECORD for a VOID and SEAL for a SEALED; the segment is SEALED
in the map all the same. A record whose VOID program changed nothing stays TORN, and every other one is VOIDED. The fill and
the last sequence of an unsealable segment and of an open candidate are those its records give, and SEALED holds that last
sequence. The finding "open segment sealed early" is that of the newest candidate. Where mount ends with the scan,
MODE_CHANGED follows the faults. The records read end within their segments, as every record that the part writes does, and
a program that fails here changes no bit. (That equal generations stand in the order of their indices is log 28.) -/
def Obligations.MountScanReadsTheRecords : Prop :=
  ∀ (media : List Programmed) (s : State), s.ArrayOk → s.inReset = false → s.mount.phase = .scanning → s.ScanOk →
    (∀ answer ∈ media, answer = .done ∨ answer = .left []) →
    let m := s.array
    let torn (i line : Nat) : Prop :=
      RingSegment m i ∧ ScanLine m i line ∧ line < 4096 ∧ ∃ h, recordAt m i line = .torn h
    (∀ i line h, RingSegment m i → ScanReads m i line h → line + (2 + (h.length + 15) / 16) ≤ 4096) →
    ∃ (u : State) (programs : List (Nat × Option Nat)), exec (.mountScan media) s = .next u.settle ∧
      (let seals (i : Nat) : Prop :=
        RingSegment m i ∧ readSealed m i = .absent ∧ (u.segs.ring.getLast? = some i → ∃ line, ScanStops m i line)
       let failed := ((programs.zip media).filter fun x => x.2 = .left []).map Prod.fst
       programs.Nodup ∧ (∀ i line, (i, some line) ∈ programs ↔ torn i line) ∧
        (∀ i, (i, none) ∈ programs ↔ seals i) ∧
        programs.Pairwise
          (fun x y =>
            u.segs.ring.idxOf x.1 < u.segs.ring.idxOf y.1 ∨
              (x.1 = y.1 ∧ ∃ line, x.2 = some line ∧ ∀ line', y.2 = some line' → line < line')) ∧
        u.mount.findings.torn = min 65535 (programs.filter fun x => x.2.isSome).length ∧
        (∀ i, RingSegment m i →
          (u.seg i).faults = min 2 (failed.filter fun x => x.1 = i).length ∧
            (readSealed m i ≠ .valid → ScannedEntry m i (u.seg i)) ∧
            (readSealed m i = .absent → (u.seg i).state = .open ∨ seals i) ∧
            (seals i → (u.seg i).state = .sealed ∧
              if (i, none) ∈ failed then readSealed u.array i = .absent
              else readSealed u.array i = .valid ∧ readLast u.array i = (u.seg i).last)) ∧
        (∀ i line h, torn i line → recordAt m i line = .torn h →
          recordAt u.array i line = if (i, some line) ∈ failed then .torn h else .voided h) ∧
        (u.mount.findings.sealedEarly = true ↔
          ∃ i, (u.segs.ring.filter fun j => readSealed m j = .absent).getLast? = some i ∧
            ∃ line, ScanStops m i line) ∧
        (∀ q, u.port q =
          { s.port q with
            lists :=
              if (s.port q).attached = true then
                let told :=
                  failed.foldl
                    (fun l x => l.addNotice (.mediaFault x.1 (if x.2 = none then .seal else .record)))
                    (s.port q).lists
                if u.mount.phase = .recording then told
                else
                  told.addNotice
                    (.modeChanged u.control.mode
                      (if u.control.mode = .run then .mounted
                      else if u.control.frozen.media = true then .media
                      else .sequence))
              else (s.port q).lists }) ∧
        ∀ a, (∀ i line, torn i line → a < lineAddress i line + 28 ∨ lineAddress i line + 32 ≤ a) →
          (∀ i, RingSegment m i → readSealed m i = .absent → a < address i 36 ∨ address i 48 ≤ a) →
          u.array.read a = m.read a)

/-! ### Time -/

/-- R52, R102 to R106: the hold timer of a blocked DATA head runs out: the head leaves with FULL, its buffer is EMPTY, and its
completion is posted if its report is yes, which it is not for a port that has departed (R63). Without an entry behind it the
writer is IDLE with no pressure, and a drain ends in SERVICE (R126). An entry behind it is the next head: it asks for the array
when it can be written, waits for space that is producible, or stays blocked, under HOLD with its own full hold limit and in
the same episode, with no further PRESSURE notice. A timer that does not run, or has time left, does not expire. R84: the passing of a
deadline: the request of a WAITING cursor whose deadline has no time left completes END and the cursor is IDLE; otherwise
nothing changes, and a FETCHING cursor goes on and will find its deadline passed. R15: a millisecond: the tick counter
advances by one, from 2^32 minus 1 to 0, and holds still until the mount scan has finished; every time left falls by one,
to 0 at least (that one tick serves all the timers is log 10). -/
def Obligations.TimersExpireAndAdvance : Prop :=
  ∀ s : State, s.inReset = false →
    (s.writer.holdTimer ≠ some 0 → exec .holdTimerExpiry s = .next s) ∧
    (∀ (p : Port) (b : BufferId) (tag : Byte) (report : Bool) (e : Entry) (behind : List Entry),
      s.writer.holdTimer = some 0 → s.writer.state = .waiting → s.writer.queue = e :: behind → e.kind = .data →
      e.source = .host p b tag report →
      ∃ u v : State, exec .holdTimerExpiry s = .next u.settle ∧
        v = { s with
              portA := v.portA, portB := v.portB, portC := v.portC
              writer := { s.writer with queue := behind, holdTimer := none } } ∧
        s.Completes v p b tag report .full 0 ∧
        (behind = [] → s.control.phase ≠ .draining →
          u = { v with writer := { v.writer with state := .idle, pressure := .none } }) ∧
        (∀ q r, behind = [] → s.control.phase = .draining → s.control.mode = .draining → s.control.claimant = some q →
          s.control.request = some r →
          u.writer = { v.writer with state := .idle, pressure := .none } ∧
            u.control = { s.control with mode := .service, phase := .active, request := none } ∧
            u.store = { s.store with pendingCfg := some s.store.active } ∧
            (∀ x,
              let told :=
                if (s.port x).attached = true then (v.port x).lists.addNotice (.modeChanged .service .drained)
                else (v.port x).lists
              u.port x =
                { v.port x with
                  lists :=
                    if x = q ∧ r.report = true then
                      told.post
                        { kind := .claimService, tag := r.tag, outcome := .ok, sequence := 0, stream := 0, length := 0 }
                    else told }) ∧
            u.cursors.table = s.cursors.table ∧ (∀ f ∈ u.cursors.fetchList, f.owner ≠ q → f.held = true) ∧
            u.array = s.array ∧ u.segs = s.segs ∧ u.seq = s.seq ∧ u.reclaim = s.reclaim ∧ u.mount = s.mount ∧
            u.tick = s.tick) ∧
        ∀ next rest, behind = next :: rest → s.writer.nextSequence ≠ 281474976710655 →
          (v.CanWrite next → u = { v with writer := { v.writer with state := .requesting, pressure := .none } }) ∧
          (¬ v.CanWrite next → (s.reclaim ≠ .idle ∨ s.segs.dirty ≠ [] ∨ s.eligible = true) →
            u = { v with writer := { v.writer with pressure := .waiting } }) ∧
          (¬ v.CanWrite next → s.reclaim = .idle → s.segs.dirty = [] → s.eligible = false →
            s.writer.pressure = .blocked → s.store.active.policy = .hold → next.kind = .data →
            u = { v with writer := { v.writer with holdTimer := some (100 * s.store.active.holdLimit) } })) ∧
    (∀ (id : Nat) (c : Cursor), s.cursor id = some c →
      exec (.waitDeadline id) s =
        .next
          (match c.state with
          | .waiting r =>
            if r.deadline = some 0 then
              (s.setCursor id (some { c with state := .idle })).modLists c.owner fun l =>
                l.post
                  { kind := .readNext, tag := r.tag, outcome := .endOfJournal, sequence := 0, stream := 0
                    length := 0 }
            else s
          | _ => s)) ∧
    ∃ t, exec .tickCounterAdvance s = .next t ∧
      t.tick = (if s.mount.phase = .scanning then s.tick else s.tick + 1) ∧
      (∀ p, t.port p = { s.port p with leaseTimer := (s.port p).leaseTimer.map (· - 1) }) ∧
      t.writer = { s.writer with holdTimer := s.writer.holdTimer.map (· - 1) } ∧
      t.seq =
        { s.seq with
          slice :=
            match s.seq.slice with
            | .running left => .running (left - 1)
            | other => other } ∧
      t.cursors.fetchList = s.cursors.fetchList ∧ t.reclaim = s.reclaim ∧
      (∀ id, t.cursor id =
        (s.cursor id).map fun c =>
          { c with
            state :=
              match c.state with
              | .idle => .idle
              | .fetching r => .fetching { r with deadline := r.deadline.map (· - 1) }
              | .waiting r => .waiting { r with deadline := r.deadline.map (· - 1) } }) ∧
      t.array = s.array ∧ t.segs = s.segs ∧ t.control = s.control ∧ t.store = s.store ∧ t.mount = s.mount

end
end

