-- ==== Sys2Proof/Laws/State.lean ====
section
/-! SUPPORT. One lemma per field per update of the state's records, true by unfolding, for simp. -/

namespace Sys2Proof.Machine

set_option Elab.async false

variable (s : State) (p q : Port) (u v : PortUnit)

/-! ### setPort -/

@[simp] theorem port_setPort_self : (s.setPort p u).port p = u := by cases p <;> rfl

theorem port_setPort_ne (h : q ≠ p) : (s.setPort p u).port q = s.port q := by
  cases p <;> cases q <;> first | rfl | exact absurd rfl h

theorem port_setPort : (s.setPort p u).port q = if q = p then u else s.port q := by
  by_cases h : q = p
  · subst h; simp
  · simp [h, port_setPort_ne]

@[simp] theorem setPort_setPort : (s.setPort p u).setPort p v = s.setPort p v := by cases p <;> rfl
@[simp] theorem setPort_port : s.setPort p (s.port p) = s := by cases p <;> rfl

theorem setPort_comm (h : p ≠ q) : (s.setPort p u).setPort q v = (s.setPort q v).setPort p u := by
  cases p <;> cases q <;> first | rfl | exact absurd rfl h

@[simp] theorem setPort_array : (s.setPort p u).array = s.array := by cases p <;> rfl
@[simp] theorem setPort_inReset : (s.setPort p u).inReset = s.inReset := by cases p <;> rfl
@[simp] theorem setPort_writer : (s.setPort p u).writer = s.writer := by cases p <;> rfl
@[simp] theorem setPort_segs : (s.setPort p u).segs = s.segs := by cases p <;> rfl
@[simp] theorem setPort_reclaim : (s.setPort p u).reclaim = s.reclaim := by cases p <;> rfl
@[simp] theorem setPort_cursors : (s.setPort p u).cursors = s.cursors := by cases p <;> rfl
@[simp] theorem setPort_seq : (s.setPort p u).seq = s.seq := by cases p <;> rfl
@[simp] theorem setPort_control : (s.setPort p u).control = s.control := by cases p <;> rfl
@[simp] theorem setPort_store : (s.setPort p u).store = s.store := by cases p <;> rfl
@[simp] theorem setPort_mount : (s.setPort p u).mount = s.mount := by cases p <;> rfl
@[simp] theorem setPort_tick : (s.setPort p u).tick = s.tick := by cases p <;> rfl
@[simp] theorem setPort_pending : (s.setPort p u).pending = s.pending := by cases p <;> rfl

/-! ### modPort, modLists, setBuffer -/

variable (f : PortUnit → PortUnit) (g : CompletionUnit → CompletionUnit)

@[simp] theorem port_modPort_self : (s.modPort p f).port p = f (s.port p) := by simp [State.modPort]

theorem port_modPort_ne (h : q ≠ p) : (s.modPort p f).port q = s.port q := port_setPort_ne s p q _ h

theorem port_modPort : (s.modPort p f).port q = if q = p then f (s.port p) else s.port q := port_setPort s p q _

@[simp] theorem modPort_array : (s.modPort p f).array = s.array := setPort_array ..
@[simp] theorem modPort_inReset : (s.modPort p f).inReset = s.inReset := setPort_inReset ..
@[simp] theorem modPort_writer : (s.modPort p f).writer = s.writer := setPort_writer ..
@[simp] theorem modPort_segs : (s.modPort p f).segs = s.segs := setPort_segs ..
@[simp] theorem modPort_reclaim : (s.modPort p f).reclaim = s.reclaim := setPort_reclaim ..
@[simp] theorem modPort_cursors : (s.modPort p f).cursors = s.cursors := setPort_cursors ..
@[simp] theorem modPort_seq : (s.modPort p f).seq = s.seq := setPort_seq ..
@[simp] theorem modPort_control : (s.modPort p f).control = s.control := setPort_control ..
@[simp] theorem modPort_store : (s.modPort p f).store = s.store := setPort_store ..
@[simp] theorem modPort_mount : (s.modPort p f).mount = s.mount := setPort_mount ..
@[simp] theorem modPort_tick : (s.modPort p f).tick = s.tick := setPort_tick ..
@[simp] theorem modPort_pending : (s.modPort p f).pending = s.pending := setPort_pending ..

@[simp] theorem port_modLists_self :
    (s.modLists p g).port p = { s.port p with lists := g (s.port p).lists } := port_modPort_self ..

theorem port_modLists_ne (h : q ≠ p) : (s.modLists p g).port q = s.port q := port_modPort_ne s p q _ h

@[simp] theorem modLists_array : (s.modLists p g).array = s.array := modPort_array ..
@[simp] theorem modLists_inReset : (s.modLists p g).inReset = s.inReset := modPort_inReset ..
@[simp] theorem modLists_writer : (s.modLists p g).writer = s.writer := modPort_writer ..
@[simp] theorem modLists_segs : (s.modLists p g).segs = s.segs := modPort_segs ..
@[simp] theorem modLists_reclaim : (s.modLists p g).reclaim = s.reclaim := modPort_reclaim ..
@[simp] theorem modLists_cursors : (s.modLists p g).cursors = s.cursors := modPort_cursors ..
@[simp] theorem modLists_seq : (s.modLists p g).seq = s.seq := modPort_seq ..
@[simp] theorem modLists_control : (s.modLists p g).control = s.control := modPort_control ..
@[simp] theorem modLists_store : (s.modLists p g).store = s.store := modPort_store ..
@[simp] theorem modLists_mount : (s.modLists p g).mount = s.mount := modPort_mount ..
@[simp] theorem modLists_tick : (s.modLists p g).tick = s.tick := modPort_tick ..
@[simp] theorem modLists_pending : (s.modLists p g).pending = s.pending := modPort_pending ..

variable (i j : BufferId) (b c : Buffer)

@[simp] theorem buffer_setBuffer_self : (u.setBuffer i b).buffer i = b := by cases i <;> rfl

theorem buffer_setBuffer_ne (h : j ≠ i) : (u.setBuffer i b).buffer j = u.buffer j := by
  cases i <;> cases j <;> first | rfl | exact absurd rfl h

@[simp] theorem setBuffer_setBuffer : (u.setBuffer i b).setBuffer i c = u.setBuffer i c := by cases i <;> rfl
@[simp] theorem setBuffer_lists : (u.setBuffer i b).lists = u.lists := by cases i <;> rfl
@[simp] theorem setBuffer_attached : (u.setBuffer i b).attached = u.attached := by cases i <;> rfl
@[simp] theorem setBuffer_lease : (u.setBuffer i b).lease = u.lease := by cases i <;> rfl
@[simp] theorem setBuffer_leaseTimer : (u.setBuffer i b).leaseTimer = u.leaseTimer := by cases i <;> rfl
@[simp] theorem setBuffer_window : (u.setBuffer i b).window = u.window := by cases i <;> rfl

/-! ### setCursor -/

variable (id k : Nat) (slot : Option Cursor)

theorem cursor_setCursor_self (h : id < s.cursors.table.length) : (s.setCursor id slot).cursor id = slot := by
  simp [State.cursor, State.setCursor, h]

theorem cursor_setCursor_ne (h : k ≠ id) : (s.setCursor id slot).cursor k = s.cursor k := by
  simp [State.cursor, State.setCursor, List.getD, Ne.symm h]

@[simp] theorem setCursor_array : (s.setCursor id slot).array = s.array := rfl
@[simp] theorem setCursor_port : (s.setCursor id slot).port q = s.port q := by cases q <;> rfl
@[simp] theorem setCursor_writer : (s.setCursor id slot).writer = s.writer := rfl
@[simp] theorem setCursor_segs : (s.setCursor id slot).segs = s.segs := rfl
@[simp] theorem setCursor_reclaim : (s.setCursor id slot).reclaim = s.reclaim := rfl
@[simp] theorem setCursor_seq : (s.setCursor id slot).seq = s.seq := rfl
@[simp] theorem setCursor_control : (s.setCursor id slot).control = s.control := rfl
@[simp] theorem setCursor_store : (s.setCursor id slot).store = s.store := rfl
@[simp] theorem setCursor_mount : (s.setCursor id slot).mount = s.mount := rfl
@[simp] theorem setCursor_tick : (s.setCursor id slot).tick = s.tick := rfl
@[simp] theorem setCursor_pending : (s.setCursor id slot).pending = s.pending := rfl
@[simp] theorem setCursor_inReset : (s.setCursor id slot).inReset = s.inReset := rfl
@[simp] theorem setCursor_fetchList : (s.setCursor id slot).cursors.fetchList = s.cursors.fetchList := rfl
@[simp] theorem setCursor_table_length :
    (s.setCursor id slot).cursors.table.length = s.cursors.table.length := by simp [State.setCursor]

/-! ### hold -/

variable (gr : Grant)

@[simp] theorem hold_grant : (s.hold gr).seq.grant = gr := rfl
@[simp] theorem hold_erases : (s.hold gr).seq.erases = s.seq.erases := rfl
@[simp] theorem hold_head : (s.hold gr).seq.head = s.seq.head := rfl
@[simp] theorem hold_slice : (s.hold gr).seq.slice = s.seq.slice := rfl
@[simp] theorem hold_lastFetch : (s.hold gr).seq.lastFetch = s.seq.lastFetch := rfl
@[simp] theorem hold_fetchCount : (s.hold gr).seq.fetchCount = s.seq.fetchCount := rfl
@[simp] theorem hold_array : (s.hold gr).array = s.array := rfl
@[simp] theorem hold_port : (s.hold gr).port q = s.port q := by cases q <;> rfl
@[simp] theorem hold_writer : (s.hold gr).writer = s.writer := rfl
@[simp] theorem hold_segs : (s.hold gr).segs = s.segs := rfl
@[simp] theorem hold_reclaim : (s.hold gr).reclaim = s.reclaim := rfl
@[simp] theorem hold_cursors : (s.hold gr).cursors = s.cursors := rfl
@[simp] theorem hold_control : (s.hold gr).control = s.control := rfl
@[simp] theorem hold_store : (s.hold gr).store = s.store := rfl
@[simp] theorem hold_mount : (s.hold gr).mount = s.mount := rfl
@[simp] theorem hold_tick : (s.hold gr).tick = s.tick := rfl
@[simp] theorem hold_pending : (s.hold gr).pending = s.pending := rfl
@[simp] theorem hold_inReset : (s.hold gr).inReset = s.inReset := rfl
@[simp] theorem hold_hold (gr' : Grant) : (s.hold gr).hold gr' = s.hold gr' := rfl

/-! ### modSeg -/

variable (h : SegEntry → SegEntry)

@[simp] theorem modSeg_array : (s.modSeg k h).array = s.array := rfl
@[simp] theorem modSeg_port : (s.modSeg k h).port q = s.port q := by cases q <;> rfl
@[simp] theorem modSeg_writer : (s.modSeg k h).writer = s.writer := rfl
@[simp] theorem modSeg_cursors : (s.modSeg k h).cursors = s.cursors := rfl
@[simp] theorem modSeg_control : (s.modSeg k h).control = s.control := rfl
@[simp] theorem modSeg_store : (s.modSeg k h).store = s.store := rfl
@[simp] theorem modSeg_mount : (s.modSeg k h).mount = s.mount := rfl
@[simp] theorem modSeg_reclaim : (s.modSeg k h).reclaim = s.reclaim := rfl
@[simp] theorem modSeg_seq : (s.modSeg k h).seq = s.seq := rfl
@[simp] theorem modSeg_tick : (s.modSeg k h).tick = s.tick := rfl
@[simp] theorem modSeg_pending : (s.modSeg k h).pending = s.pending := rfl
@[simp] theorem modSeg_inReset : (s.modSeg k h).inReset = s.inReset := rfl

@[simp] theorem setEntry_ring (m : SegmentManager) (e : SegEntry) : (m.setEntry k e).ring = m.ring := by
  unfold SegmentManager.setEntry; split <;> rfl
@[simp] theorem setEntry_pool (m : SegmentManager) (e : SegEntry) : (m.setEntry k e).pool = m.pool := by
  unfold SegmentManager.setEntry; split <;> rfl
@[simp] theorem setEntry_dirty (m : SegmentManager) (e : SegEntry) : (m.setEntry k e).dirty = m.dirty := by
  unfold SegmentManager.setEntry; split <;> rfl
@[simp] theorem setEntry_usable (m : SegmentManager) (e : SegEntry) : (m.setEntry k e).usable = m.usable := by
  unfold SegmentManager.setEntry; split <;> rfl
@[simp] theorem setEntry_generation (m : SegmentManager) (e : SegEntry) :
    (m.setEntry k e).generation = m.generation := by
  unfold SegmentManager.setEntry; split <;> rfl

@[simp] theorem modSeg_ring : (s.modSeg k h).segs.ring = s.segs.ring := setEntry_ring ..
@[simp] theorem modSeg_pool : (s.modSeg k h).segs.pool = s.segs.pool := setEntry_pool ..
@[simp] theorem modSeg_dirty : (s.modSeg k h).segs.dirty = s.segs.dirty := setEntry_dirty ..
@[simp] theorem modSeg_usable : (s.modSeg k h).segs.usable = s.segs.usable := setEntry_usable ..
@[simp] theorem modSeg_generation : (s.modSeg k h).segs.generation = s.segs.generation := setEntry_generation ..

theorem entry_setEntry_self (m : SegmentManager) (e : SegEntry) (h2 : 2 ≤ k) (hk : k < m.map.length + 2) :
    (m.setEntry k e).entry k = e := by
  match k, h2, hk with
  | n + 2, _, hk =>
    have hn : n < m.map.length := by omega
    simp [SegmentManager.setEntry, SegmentManager.entry, hn]

theorem entry_setEntry_ne (m : SegmentManager) (e : SegEntry) (j : Nat) (hj : j ≠ k) :
    (m.setEntry k e).entry j = m.entry j := by
  match k, j, hj with
  | 0, _, _ => rfl
  | 1, _, _ => rfl
  | n + 2, 0, _ => rfl
  | n + 2, 1, _ => rfl
  | n + 2, l + 2, hj =>
    have hl : n ≠ l := by omega
    simp [SegmentManager.setEntry, SegmentManager.entry, List.getD, hl]

theorem seg_modSeg_self (h2 : 2 ≤ k) (hk : k < s.segs.map.length + 2) : (s.modSeg k h).seg k = h (s.seg k) :=
  entry_setEntry_self k s.segs _ h2 hk

theorem seg_modSeg_ne (j : Nat) (hj : j ≠ k) : (s.modSeg k h).seg j = s.seg j := entry_setEntry_ne k s.segs _ j hj

/-! ### The frame -/

@[simp] theorem answered_array (code : Code) (result : List Byte) : (s.answered p code result).array = s.array :=
  modPort_array ..

/-- R177 to R179: a frame taken and answered at once is `answered`. -/
theorem takeFrame_answer (code : Code) (result : List Byte) :
    (s.takeFrame p).answer p code result = s.answered p code result := by
  simp [State.takeFrame, State.answer, State.answered, State.modPort]

end Sys2Proof.Machine
end

