-- ==== Sys2Proof/Laws/Ops.lean ====
section
/-! SUPPORT. What the shared operations leave alone: none of them programs the array, counts the tick, assigns a sequence
number, or touches the queue of commands. One lemma per operation. -/

namespace Sys2Proof.Machine

set_option Elab.async false

/-- `t` has the array, the queue of commands, the reset line, the tick, the next sequence number and the mount number of
`s`. -/
structure Kept (s t : State) : Prop where
  array : t.array = s.array
  pending : t.pending = s.pending
  inReset : t.inReset = s.inReset
  tick : t.tick = s.tick
  next : t.writer.nextSequence = s.writer.nextSequence
  number : t.mount.number = s.mount.number

namespace Kept

theorem refl (s : State) : Kept s s := ⟨rfl, rfl, rfl, rfl, rfl, rfl⟩

theorem trans {s t u : State} (h : Kept s t) (h' : Kept t u) : Kept s u :=
  ⟨h'.1.trans h.1, h'.2.trans h.2, h'.3.trans h.3, h'.4.trans h.4, h'.5.trans h.5, h'.6.trans h.6⟩

theorem foldl {α : Type} (f : State → α → State) (h : ∀ s a, Kept s (f s a)) :
    ∀ (l : List α) (s : State), Kept s (l.foldl f s)
  | [], s => refl s
  | a :: l, s => (h s a).trans (foldl f h l (f s a))

end Kept

variable (s : State) (p : Port)

theorem modPort_kept (f : PortUnit → PortUnit) : Kept s (s.modPort p f) := by
  constructor <;> simp

theorem setPort_kept (u : PortUnit) : Kept s (s.setPort p u) := by
  constructor <;> simp

theorem modLists_kept (f : CompletionUnit → CompletionUnit) : Kept s (s.modLists p f) := modPort_kept ..

theorem hand_kept (n : Notice) : Kept s (s.hand p n) := by
  unfold State.hand
  split
  · exact modLists_kept ..
  · exact .refl s

theorem handAll_kept (n : Notice) : Kept s (s.handAll n) :=
  ((hand_kept s .a n).trans (hand_kept _ .b n)).trans (hand_kept _ .c n)

theorem post_kept (c : Completion) : Kept s (s.post p c) := modLists_kept ..

theorem reserveSlot_kept : Kept s (s.reserveSlot p) := modLists_kept ..

theorem setBuffer_kept (i : BufferId) (b : Buffer) : Kept s (s.setBuffer p i b) := modPort_kept ..

theorem modSeg_kept (i : Nat) (f : SegEntry → SegEntry) : Kept s (s.modSeg i f) := ⟨rfl, rfl, rfl, rfl, rfl, rfl⟩

theorem faultSeg_kept (i : Nat) : Kept s (s.faultSeg i) := modSeg_kept ..

theorem setCursor_kept (id : Nat) (c : Option Cursor) : Kept s (s.setCursor id c) := ⟨rfl, rfl, rfl, rfl, rfl, rfl⟩

theorem mapCursors_kept (f : Cursor → Cursor) : Kept s (s.mapCursors f) := ⟨rfl, rfl, rfl, rfl, rfl, rfl⟩

theorem dropFetch_kept (id : Nat) : Kept s (s.dropFetch id) := ⟨rfl, rfl, rfl, rfl, rfl, rfl⟩

theorem joinFetch_kept (id : Nat) (owner : Port) (held : Bool) : Kept s (s.joinFetch id owner held) :=
  ⟨rfl, rfl, rfl, rfl, rfl, rfl⟩

theorem dropHints_kept (i : Nat) : Kept s (s.dropHints i) := mapCursors_kept ..

theorem demote_kept (id : Nat) : Kept s (s.demote id) := by
  unfold State.demote
  split
  · exact .refl s
  · exact (setCursor_kept ..).trans (hand_kept ..)

theorem demoteForSpace_kept : Kept s s.demoteForSpace := by
  unfold State.demoteForSpace
  split
  · exact .refl s
  · apply Kept.foldl
    intro s id
    split
    · exact .refl s
    · split
      · exact demote_kept ..
      · exact .refl s

theorem changeMode_kept (m : Mode) (cause : ModeCause) : Kept s (s.changeMode m cause) :=
  Kept.trans (t := { s with control := { s.control with mode := m } }) ⟨rfl, rfl, rfl, rfl, rfl, rfl⟩
    (handAll_kept ..)

theorem holdFetches_kept : Kept s s.holdFetches := ⟨rfl, rfl, rfl, rfl, rfl, rfl⟩

theorem releaseFetches_kept : Kept s s.releaseFetches := ⟨rfl, rfl, rfl, rfl, rfl, rfl⟩

theorem postClaim_kept : Kept s s.postClaim := by
  unfold State.postClaim
  split
  · split
    · exact post_kept ..
    · exact .refl s
  · exact .refl s

theorem beginService_kept : Kept s s.beginService := ⟨rfl, rfl, rfl, rfl, rfl, rfl⟩

theorem activateClaim_kept : Kept s s.activateClaim :=
  ((postClaim_kept s).trans (beginService_kept _)).trans (holdFetches_kept _)

theorem dropClaim_kept : Kept s s.dropClaim := ⟨rfl, rfl, rfl, rfl, rfl, rfl⟩

theorem leaveService_kept : Kept s s.leaveService := by
  unfold State.leaveService
  split
  · exact .refl s
  · exact changeMode_kept ..

theorem announceRelease_kept (former : Option Port) : Kept s (s.announceRelease former) := by
  cases former with
  | none => exact .refl s
  | some p => exact handAll_kept ..

theorem endClaim_kept : Kept s s.endClaim :=
  (((dropClaim_kept s).trans (leaveService_kept _)).trans (releaseFetches_kept _)).trans (announceRelease_kept ..)

theorem endClaimIfEnding_kept : Kept s s.endClaimIfEnding := by
  unfold State.endClaimIfEnding
  split
  · exact endClaim_kept s
  · exact .refl s

theorem postOperation_kept (kind : RequestKind) (outcome : Code) : Kept s (s.postOperation kind outcome) := by
  unfold State.postOperation
  split
  · split
    · exact post_kept ..
    · exact .refl s
  · exact .refl s

theorem dropOperation_kept : Kept s s.dropOperation := ⟨rfl, rfl, rfl, rfl, rfl, rfl⟩

theorem endOperation_kept (kind : RequestKind) (outcome : Code) : Kept s (s.endOperation kind outcome) :=
  ((postOperation_kept s kind outcome).trans (dropOperation_kept _)).trans (endClaimIfEnding_kept _)

theorem endMountPhase_kept : Kept s s.endMountPhase := ⟨rfl, rfl, rfl, rfl, rfl, rfl⟩

theorem completeMount_kept : Kept s s.completeMount := by
  unfold State.completeMount
  split
  · exact (endMountPhase_kept s).trans (changeMode_kept ..)
  · split
    · exact (endMountPhase_kept s).trans (changeMode_kept ..)
    · exact (endMountPhase_kept s).trans (changeMode_kept ..)

theorem findMountRecord_kept (n : Nat) : Kept s (s.findMountRecord n) := ⟨rfl, rfl, rfl, rfl, rfl, rfl⟩

theorem tellProducer_kept (kind : RecordKind) (written : Option Nat) : Kept s (s.tellProducer kind written) := by
  cases kind with
  | data => exact .refl s
  | mount => exact (findMountRecord_kept s _).trans (completeMount_kept _)
  | format => exact endOperation_kept ..
  | config => exact endOperation_kept ..

theorem finishEntry_kept (e : Entry) (outcome : Code) (written : Option Nat) :
    Kept s (s.finishEntry e outcome written) := by
  unfold State.finishEntry
  split
  · exact tellProducer_kept ..
  · split
    · exact (setBuffer_kept ..).trans (post_kept ..)
    · exact setBuffer_kept ..

theorem dequeue_kept : Kept s s.dequeue := ⟨rfl, rfl, rfl, rfl, rfl, rfl⟩

theorem leaveHead_kept (e : Entry) (outcome : Code) (written : Option Nat) : Kept s (s.leaveHead e outcome written) :=
  (dequeue_kept s).trans (finishEntry_kept ..)

theorem setWriter_kept (w : WriterState) (pressure : Pressure) (timer : Option Nat) :
    Kept s (s.setWriter w pressure timer) := ⟨rfl, rfl, rfl, rfl, rfl, rfl⟩

theorem drainEnds_kept : Kept s s.drainEnds := by
  unfold State.drainEnds
  split
  · split
    · exact (changeMode_kept ..).trans (activateClaim_kept _)
    · exact (changeMode_kept ..).trans (activateClaim_kept _)
    · exact .refl s
  · exact .refl s

theorem writerIdle_kept : Kept s s.writerIdle := (setWriter_kept ..).trans (drainEnds_kept _)

theorem becomeBlocked_kept : Kept s s.becomeBlocked := by
  unfold State.becomeBlocked
  split
  · exact setWriter_kept ..
  · exact (setWriter_kept ..).trans (handAll_kept ..)

theorem setHoldTimer_kept (timer : Option Nat) : Kept s (s.setHoldTimer timer) := ⟨rfl, rfl, rfl, rfl, rfl, rfl⟩

theorem demoteAndWait_kept : Kept s s.demoteAndWait := (demoteForSpace_kept s).trans (setWriter_kept ..)

theorem holdHead_kept (fresh : Bool) : Kept s (s.holdHead fresh) := by
  unfold State.holdHead
  split
  · exact setHoldTimer_kept ..
  · exact .refl s

theorem examine_kept : ∀ (fuel : Nat) (fresh : Bool) (s : State), Kept s (State.examine fuel fresh s)
  | 0, _, s => .refl s
  | fuel + 1, fresh, s => by
    unfold State.examine
    split
    · exact writerIdle_kept s
    · split
      · exact (leaveHead_kept ..).trans (examine_kept ..)
      · split
        · exact setWriter_kept ..
        · split
          · exact setWriter_kept ..
          · split
            · exact (becomeBlocked_kept s).trans (holdHead_kept ..)
            · exact (((becomeBlocked_kept s).trans (setHoldTimer_kept ..)).trans (leaveHead_kept ..)).trans
                (examine_kept ..)
            · exact (becomeBlocked_kept s).trans (demoteAndWait_kept _)
            · exact (becomeBlocked_kept s).trans (setHoldTimer_kept ..)

theorem examineHead_kept : Kept s s.examineHead := examine_kept ..

theorem freeCountRose_kept : Kept s s.freeCountRose := by
  unfold State.freeCountRose
  split
  · exact examine_kept ..
  · exact .refl s

theorem awaitSpace_kept : Kept s s.awaitSpace := by
  unfold State.awaitSpace
  split
  · exact setWriter_kept ..
  · exact .refl s

theorem redecidePressure_kept : Kept s s.redecidePressure := by
  unfold State.redecidePressure
  split
  · split
    · exact awaitSpace_kept s
    · split
      · exact .refl s
      · exact examine_kept ..
  · exact .refl s

theorem floorChanged_kept : Kept s s.floorChanged := redecidePressure_kept s

theorem enqueue_kept (e : Entry) : Kept s (s.enqueue e) := ⟨rfl, rfl, rfl, rfl, rfl, rfl⟩

theorem joinQueue_kept (e : Entry) : Kept s (s.joinQueue e) := by
  unfold State.joinQueue
  split
  · exact (enqueue_kept ..).trans (examineHead_kept _)
  · exact enqueue_kept ..

theorem emptyQueue_kept : Kept s s.emptyQueue := ⟨rfl, rfl, rfl, rfl, rfl, rfl⟩

theorem flushQueue_kept : Kept s s.flushQueue :=
  (emptyQueue_kept s).trans (Kept.foldl _ (fun s e => finishEntry_kept s e .wrongMode none) _ _)

theorem addCause_kept (cause : ModeCause) : Kept s (s.addCause cause) := ⟨rfl, rfl, rfl, rfl, rfl, rfl⟩

theorem activateIfDraining_kept : Kept s s.activateIfDraining := by
  unfold State.activateIfDraining
  split
  · exact activateClaim_kept s
  · exact .refl s

theorem enterFrozen_kept (cause : ModeCause) : Kept s (s.enterFrozen cause) := by
  unfold State.enterFrozen
  split
  · exact addCause_kept ..
  · exact addCause_kept ..
  · exact (((addCause_kept s cause).trans (changeMode_kept ..)).trans (flushQueue_kept _)).trans
      (activateIfDraining_kept _)

theorem examineReclaim_kept : Kept s s.examineReclaim := by
  unfold State.examineReclaim
  split
  · exact ⟨rfl, rfl, rfl, rfl, rfl, rfl⟩
  · exact .refl s

theorem suspendIfMet_kept : Kept s s.suspendIfMet := by
  unfold State.suspendIfMet
  split
  · exact ⟨rfl, rfl, rfl, rfl, rfl, rfl⟩
  · exact .refl s

theorem requestErase_kept (e : Erase) : Kept s (s.requestErase e) := ⟨rfl, rfl, rfl, rfl, rfl, rfl⟩

/-! ### What follows a command -/

theorem hold_kept (g : Grant) : Kept s (s.hold g) := ⟨rfl, rfl, rfl, rfl, rfl, rfl⟩

theorem leaveDirty_kept (i : Nat) : Kept s (s.leaveDirty i) := ⟨rfl, rfl, rfl, rfl, rfl, rfl⟩

theorem leaveRing_kept (i : Nat) : Kept s (s.leaveRing i) := ⟨rfl, rfl, rfl, rfl, rfl, rfl⟩

theorem overtakeCursor_kept (place b : Nat) (id : Nat) : Kept s (State.overtakeCursor place b s id) := by
  unfold State.overtakeCursor
  split
  · exact .refl s
  · dsimp only
    split
    · exact (setCursor_kept ..).trans (hand_kept ..)
    · exact setCursor_kept ..

theorem overtake_kept (last : Nat) : Kept s (s.overtake last) :=
  Kept.foldl _ (fun s id => overtakeCursor_kept s _ _ id) _ _

theorem takeTarget_kept (t : Target) : Kept s (s.takeTarget t) := by
  unfold State.takeTarget
  split
  · exact leaveDirty_kept ..
  · exact ((leaveRing_kept ..).trans (overtake_kept ..)).trans (awaitSpace_kept _)

theorem chooseNothing_kept : Kept s s.chooseNothing :=
  Kept.trans (t := { s with reclaim := .idle }) ⟨rfl, rfl, rfl, rfl, rfl, rfl⟩ (redecidePressure_kept _)

theorem appendGranted_kept : Kept s s.appendGranted := ⟨rfl, rfl, rfl, rfl, rfl, rfl⟩

theorem beginWriting_kept (e : Entry) : Kept s (s.beginWriting e) := by
  unfold State.beginWriting
  split
  · exact ⟨rfl, rfl, rfl, rfl, rfl, rfl⟩
  · exact Kept.trans (t := { s with writer := { s.writer with state := .writing } }) ⟨rfl, rfl, rfl, rfl, rfl, rfl⟩
      (setBuffer_kept ..)

theorem writeHead_kept : Kept s s.writeHead := by
  unfold State.writeHead
  split
  · exact .refl s
  · exact beginWriting_kept ..

theorem emptyGrant_kept (d : Decision) (u : State) (h : s.emptyGrant d = some u) : Kept s u := by
  unfold State.emptyGrant at h
  split at h
  · split at h
    · cases h
    · cases h; exact chooseNothing_kept s
  · split at h
    · cases h
    · cases h; exact (appendGranted_kept s).trans (examineHead_kept _)
  · cases h

theorem makeGrant_kept (d : Decision) : Kept s (s.makeGrant d) := by
  cases d with
  | nothing => exact .refl s
  | append => exact ((appendGranted_kept s).trans (writeHead_kept _)).trans (hold_kept ..)
  | fetch p => exact ⟨rfl, rfl, rfl, rfl, rfl, rfl⟩
  | _ => exact hold_kept ..

theorem examineRequests_kept : Kept s s.examineRequests := (examineReclaim_kept s).trans (suspendIfMet_kept _)

theorem decisions_kept : ∀ (fuel : Nat) (s : State), Kept s (s.decisions fuel)
  | 0, s => .refl s
  | fuel + 1, s => by
    unfold State.decisions
    dsimp only
    split
    · split
      · rename_i u h
        exact ((examineRequests_kept s).trans (emptyGrant_kept _ _ u h)).trans (decisions_kept fuel u)
      · exact (examineRequests_kept s).trans (makeGrant_kept ..)
    · exact examineRequests_kept s

theorem settle_kept : Kept s s.settle := decisions_kept 3 s

/-- R109, R111: while the array is held, and no slice has elapsed, nothing follows a command but a retire request. -/
theorem settle_of_held (h : s.arrayFree = false) (hs : s.seq.slice ≠ .elapsed) : s.settle = s.examineReclaim := by
  have e : s.examineReclaim.seq = s.seq := by
    unfold State.examineReclaim
    split <;> rfl
  have u : s.examineRequests = s.examineReclaim := by simp [State.examineRequests, State.suspendIfMet, e, hs]
  have f : s.examineReclaim.arrayFree = false := by simpa [State.arrayFree, State.eraseActive, e] using h
  simp [State.settle, State.decisions, u, f]

/-- R111, R112: a free array is granted at once to the requester of the decision, when it has work. -/
theorem settle_of_work (h : s.examineRequests.arrayFree = true)
    (hw : s.examineRequests.emptyGrant s.examineRequests.decideFree = none) :
    s.settle = s.examineRequests.makeGrant s.examineRequests.decideFree := by
  simp [State.settle, State.decisions, h, hw]

/-! ### An operation that holds the array -/

/-- R109: an operation that does not hold the array does not happen. -/
theorem carriedOut_of_ne (g : Grant) (operation : State → State) (h : s.seq.grant ≠ g) : carriedOut g operation s = s := by
  simp [carriedOut, h]

/-- R109, R112: an operation that holds the array is carried out, the array is free, and the next decision is made. -/
theorem carriedOut_of_eq (g : Grant) (operation : State → State) (hr : s.inReset = false) (h : s.seq.grant = g) :
    carriedOut g operation s = (operation (s.hold .none)).settle := by
  simp [carriedOut, h, hr]

end Sys2Proof.Machine
end

