-- ==== Sys2Proof/Laws/Frame.lean ====
section
/-! SUPPORT. What the frame of a host command comes to (R124, R177, R179): held in reset, refused unattached, refused by
the mode gate, or answered with what the command's own rule gives. -/

namespace Sys2Proof.Machine

set_option Elab.async false

variable (s : State) (p q : Port) (cls : CommandClass) (body : State → Reply)

@[simp] theorem modPort_modPort (f g : PortUnit → PortUnit) :
    (s.modPort p f).modPort p g = s.modPort p fun u => g (f u) := by simp [State.modPort]

theorem modPort_comm (f g : PortUnit → PortUnit) (h : p ≠ q) :
    (s.modPort p f).modPort q g = (s.modPort q g).modPort p f := by
  simp only [State.modPort, port_setPort_ne _ _ _ _ (Ne.symm h), port_setPort_ne _ _ _ _ h]
  exact setPort_comm s p q _ _ h

/-! ### A frame taken -/

@[simp] theorem takeFrame_array : (s.takeFrame p).array = s.array := modPort_array ..
@[simp] theorem takeFrame_inReset : (s.takeFrame p).inReset = s.inReset := modPort_inReset ..
@[simp] theorem takeFrame_writer : (s.takeFrame p).writer = s.writer := modPort_writer ..
@[simp] theorem takeFrame_segs : (s.takeFrame p).segs = s.segs := modPort_segs ..
@[simp] theorem takeFrame_reclaim : (s.takeFrame p).reclaim = s.reclaim := modPort_reclaim ..
@[simp] theorem takeFrame_cursors : (s.takeFrame p).cursors = s.cursors := modPort_cursors ..
@[simp] theorem takeFrame_seq : (s.takeFrame p).seq = s.seq := modPort_seq ..
@[simp] theorem takeFrame_control : (s.takeFrame p).control = s.control := modPort_control ..
@[simp] theorem takeFrame_store : (s.takeFrame p).store = s.store := modPort_store ..
@[simp] theorem takeFrame_mount : (s.takeFrame p).mount = s.mount := modPort_mount ..
@[simp] theorem takeFrame_tick : (s.takeFrame p).tick = s.tick := modPort_tick ..
@[simp] theorem takeFrame_pending : (s.takeFrame p).pending = s.pending := modPort_pending ..

theorem takeFrame_kept : Kept s (s.takeFrame p) := modPort_kept ..

theorem takeFrame_port_ne (h : q ≠ p) : (s.takeFrame p).port q = s.port q := port_modPort_ne s p q _ h

@[simp] theorem takeFrame_attached : ((s.takeFrame p).port q).attached = (s.port q).attached := by
  by_cases h : q = p
  · subst h; simp [State.takeFrame]
  · rw [takeFrame_port_ne s p q h]

@[simp] theorem takeFrame_lists : ((s.takeFrame p).port q).lists = (s.port q).lists := by
  by_cases h : q = p
  · subst h; simp [State.takeFrame]
  · rw [takeFrame_port_ne s p q h]

@[simp] theorem takeFrame_lease : ((s.takeFrame p).port q).lease = (s.port q).lease := by
  by_cases h : q = p
  · subst h; simp [State.takeFrame]
  · rw [takeFrame_port_ne s p q h]

@[simp] theorem takeFrame_window : ((s.takeFrame p).port q).window = (s.port q).window := by
  by_cases h : q = p
  · subst h; simp [State.takeFrame]
  · rw [takeFrame_port_ne s p q h]

@[simp] theorem takeFrame_buffer (b : BufferId) : ((s.takeFrame p).port q).buffer b = (s.port q).buffer b := by
  by_cases h : q = p
  · subst h; cases b <;> simp [State.takeFrame, PortUnit.buffer]
  · rw [takeFrame_port_ne s p q h]

/-! ### A frame answered -/

@[simp] theorem answer_answered (code : Code) (result : List Byte) :
    (s.takeFrame p).answer p code result = s.answered p code result := takeFrame_answer ..

theorem answer_modPort (f : PortUnit → PortUnit) (code : Code) (result : List Byte)
    (h : ∀ u v w, f { u with link := v, response := w } = { f u with link := v, response := w }) :
    ((s.takeFrame p).modPort p f).answer p code result = (s.answered p code result).modPort p f := by
  simp only [State.takeFrame, State.answer, State.answered, modPort_modPort]
  congr 1
  funext u
  exact (h _ _ _).symm

theorem answer_modLists (g : CompletionUnit → CompletionUnit) (code : Code) (result : List Byte) :
    ((s.takeFrame p).modLists p g).answer p code result = (s.answered p code result).modLists p g :=
  answer_modPort s p _ code result fun _ _ _ => rfl

theorem modPort_congr (f g : PortUnit → PortUnit) (h : f (s.port p) = g (s.port p)) : s.modPort p f = s.modPort p g := by
  simp [State.modPort, h]

@[simp] theorem answered_lists (code : Code) (result : List Byte) :
    ((s.answered p code result).port q).lists = (s.port q).lists := by
  by_cases h : q = p
  · subst h; simp [State.answered]
  · rw [State.answered, port_modPort_ne s p q _ h]

theorem answer_setCursor (id : Nat) (slot : Option Cursor) (code : Code) (result : List Byte) :
    (s.setCursor id slot).answer p code result = (s.answer p code result).setCursor id slot := by cases p <;> rfl

/-! ### What follows a command does not look at the ports -/

theorem examineReclaim_modPort (f : PortUnit → PortUnit) :
    (s.modPort p f).examineReclaim = s.examineReclaim.modPort p f := by
  unfold State.examineReclaim
  have hr : (s.modPort p f).retireAllowed = s.retireAllowed := by
    simp [State.retireAllowed, State.reclaimModeAllows, State.formatInFlight]
  have he : (s.modPort p f).eligible = s.eligible := by cases p <;> rfl
  rw [hr, he, modPort_reclaim, modPort_segs]
  split
  · cases p <;> rfl
  · rfl

theorem suspendIfMet_modPort (f : PortUnit → PortUnit) :
    (s.modPort p f).suspendIfMet = s.suspendIfMet.modPort p f := by
  unfold State.suspendIfMet
  have hr : (s.modPort p f).requestPending = s.requestPending := by
    simp [State.requestPending, State.retirePending, State.appendPending, State.fetchPending, State.configPending]
  have he : (s.modPort p f).eraseActive = s.eraseActive := by simp [State.eraseActive]
  rw [hr, he, modPort_seq]
  split
  · cases p <;> rfl
  · rfl

/-! ### The frame of a command -/

/-- R179: the frame of a command that is admitted is answered with what the command's own rule gives. -/
theorem hostFrame_admitted (need : Attachment) (h : s.admits p cls) :
    hostFrame p need cls body s =
      (body (s.takeFrame p)).state.answer p (body (s.takeFrame p)).code (body (s.takeFrame p)).result := by
  obtain ⟨hr, ha, hg⟩ := h
  have hg' : (s.takeFrame p).modeGate p cls = none := by
    rw [← hg]; cases cls <;> simp [State.modeGate, State.underService, State.isClaimant]
  simp [hostFrame, hr, ha, hg']

/-- R179, order 1: a DETACHED port's command is refused and nothing else. -/
theorem hostFrame_detached (hr : s.inReset = false) (ha : (s.port p).attached = false) :
    hostFrame p .needed cls body s = s.answered p .notAttached [] := by
  simp [hostFrame, hr, ha]

/-- R151: in reset no frame is taken. -/
theorem hostFrame_inReset (need : Attachment) (hr : s.inReset = true) : hostFrame p need cls body s = s := by
  simp [hostFrame, hr]

/-- R179, order 2: the mode gate's refusal and nothing else. -/
theorem hostFrame_gated (need : Attachment) (code : Code) (hr : s.inReset = false)
    (ha : (s.port p).attached = true) (hg : s.modeGate p cls = some code) :
    hostFrame p need cls body s = s.answered p code [] := by
  have hg' : (s.takeFrame p).modeGate p cls = some code := by
    rw [← hg]; cases cls <;> simp [State.modeGate, State.underService, State.isClaimant]
  simp [hostFrame, hr, ha, hg']

end Sys2Proof.Machine
end

