-- ==== Sys2Proof/Laws/Answer.lean ====
section
/-! SUPPORT. The answer to a frame and what follows the command may be taken in either order: no operation that settles the
part looks at what an answer sets, or changes it. One lemma per operation. -/

namespace Sys2Proof.Machine

set_option Elab.async false

/-- An operation that may be taken before or after the answer to a frame. -/
def Blind (f : State → State) : Prop :=
  ∀ (s : State) (p : Port) (code : Code) (result : List Byte),
    (f s).answer p code result = f (s.answer p code result)

namespace Blind

theorem id : Blind fun s => s := fun _ _ _ _ => rfl

theorem comp {f g : State → State} (hf : Blind f) (hg : Blind g) : Blind fun s => g (f s) := by
  intro s p code result
  rw [hg, hf]

theorem foldl {α : Type} {f : State → α → State} (h : ∀ a, Blind fun s => f s a) (l : List α) :
    Blind fun s => l.foldl f s := by
  induction l with
  | nil => exact id
  | cons a l ih => exact comp (h a) ih

end Blind

theorem hand_blind (q : Port) (n : Notice) : Blind (·.hand q n) := by
  intro s p code result
  have h : ((s.answer p code result).port q).attached = (s.port q).attached := by cases p <;> cases q <;> rfl
  dsimp only
  unfold State.hand
  rw [h]
  split
  · cases p <;> cases q <;> rfl
  · rfl

theorem handAll_blind (n : Notice) : Blind (·.handAll n) :=
  ((hand_blind .a n).comp (hand_blind .b n)).comp (hand_blind .c n)

theorem post_blind (q : Port) (c : Completion) : Blind (·.post q c) := by
  intro s p code result
  cases p <;> cases q <;> rfl

theorem setBuffer_blind (q : Port) (i : BufferId) (b : Buffer) : Blind (·.setBuffer q i b) := by
  intro s p code result
  cases p <;> cases q <;> cases i <;> rfl

theorem setCursor_blind (id : Nat) (c : Option Cursor) : Blind (·.setCursor id c) := by
  intro s p code result
  cases p <;> rfl

theorem demote_blind (id : Nat) : Blind (·.demote id) := by
  intro s p code result
  have h : (s.answer p code result).cursor id = s.cursor id := by cases p <;> rfl
  dsimp only
  unfold State.demote
  rw [h]
  split
  · rfl
  · rw [hand_blind, setCursor_blind]

theorem demoteForSpace_blind : Blind State.demoteForSpace := by
  intro s p code result
  have h : (s.answer p code result).segs = s.segs := by cases p <;> rfl
  have hs : ∀ i, (s.answer p code result).seg i = s.seg i := by intro i; cases p <;> rfl
  unfold State.demoteForSpace
  rw [h]
  split
  · rfl
  · simp only [hs]
    apply Blind.foldl
    intro id s p code result
    have hc : (s.answer p code result).cursor id = s.cursor id := by cases p <;> rfl
    dsimp only
    rw [hc]
    split
    · rfl
    · split
      · exact demote_blind ..
      · rfl

theorem changeMode_blind (m : Mode) (cause : ModeCause) : Blind (·.changeMode m cause) :=
  Blind.comp (f := fun s => { s with control := { s.control with mode := m } })
    (fun s p code result => by cases p <;> rfl) (handAll_blind _)

theorem postClaim_blind : Blind State.postClaim := by
  intro s p code result
  have h : (s.answer p code result).control = s.control := by cases p <;> rfl
  unfold State.postClaim
  rw [h]
  split
  · split
    · exact post_blind ..
    · rfl
  · rfl

theorem activateClaim_blind : Blind State.activateClaim :=
  (postClaim_blind.comp fun s p code result => by cases p <;> rfl).comp fun s p code result => by cases p <;> rfl

theorem leaveService_blind : Blind State.leaveService := by
  intro s p code result
  have h : (s.answer p code result).control = s.control := by cases p <;> rfl
  have hm : (s.answer p code result).restMode = s.restMode := by cases p <;> rfl
  unfold State.leaveService
  rw [h, hm]
  split
  · rfl
  · exact changeMode_blind ..

theorem announceRelease_blind (former : Option Port) : Blind (·.announceRelease former) := by
  cases former with
  | none => exact .id
  | some q => exact handAll_blind _

theorem endClaim_blind : Blind State.endClaim := by
  intro s p code result
  have h : (s.answer p code result).control = s.control := by cases p <;> rfl
  unfold State.endClaim
  rw [h, announceRelease_blind]
  congr 1
  exact ((Blind.comp (f := State.dropClaim) (fun s p code result => by cases p <;> rfl) leaveService_blind).comp
    (g := State.releaseFetches) fun s p code result => by cases p <;> rfl) _ _ _ _

theorem endClaimIfEnding_blind : Blind State.endClaimIfEnding := by
  intro s p code result
  have h : (s.answer p code result).control = s.control := by cases p <;> rfl
  unfold State.endClaimIfEnding
  rw [h]
  split
  · exact endClaim_blind ..
  · rfl

theorem postOperation_blind (kind : RequestKind) (outcome : Code) : Blind (·.postOperation kind outcome) := by
  intro s p code result
  have h : (s.answer p code result).control = s.control := by cases p <;> rfl
  dsimp only
  unfold State.postOperation
  rw [h]
  split
  · split
    · exact post_blind ..
    · rfl
  · rfl

theorem endOperation_blind (kind : RequestKind) (outcome : Code) : Blind (·.endOperation kind outcome) :=
  ((postOperation_blind kind outcome).comp (g := State.dropOperation) fun s p code result => by cases p <;> rfl).comp
    endClaimIfEnding_blind

theorem completeMount_blind : Blind State.completeMount := by
  intro s p code result
  have h : (s.answer p code result).mountCauses = s.mountCauses := by cases p <;> rfl
  have e : (s.endMountPhase).answer p code result = (s.answer p code result).endMountPhase := by cases p <;> rfl
  unfold State.completeMount
  rw [h, ← e]
  split
  · exact changeMode_blind ..
  · split
    · exact changeMode_blind ..
    · exact changeMode_blind ..

theorem tellProducer_blind (kind : RecordKind) (written : Option Nat) : Blind (·.tellProducer kind written) := by
  cases kind with
  | data => exact .id
  | mount =>
    exact Blind.comp (f := (·.findMountRecord (written.getD 0))) (fun s p code result => by cases p <;> rfl)
      completeMount_blind
  | format =>
    intro s p code result
    have h : (s.answer p code result).segs = s.segs := by cases p <;> rfl
    simp only [State.tellProducer, h]
    exact endOperation_blind ..
  | config => exact endOperation_blind _ _

theorem finishEntry_blind (e : Entry) (outcome : Code) (written : Option Nat) :
    Blind (·.finishEntry e outcome written) := by
  intro s p code result
  dsimp only
  unfold State.finishEntry
  split
  · exact tellProducer_blind ..
  · split
    · rw [post_blind, setBuffer_blind]
    · exact setBuffer_blind ..

theorem leaveHead_blind (e : Entry) (outcome : Code) (written : Option Nat) : Blind (·.leaveHead e outcome written) :=
  Blind.comp (f := State.dequeue) (fun s p code result => by cases p <;> rfl) (finishEntry_blind e outcome written)

theorem setWriter_blind (w : WriterState) (pressure : Pressure) (timer : Option Nat) :
    Blind (·.setWriter w pressure timer) := by
  intro s p code result
  cases p <;> rfl

theorem setHoldTimer_blind (timer : Option Nat) : Blind (·.setHoldTimer timer) := by
  intro s p code result
  cases p <;> rfl

theorem drainEnds_blind : Blind State.drainEnds := by
  intro s p code result
  have h : (s.answer p code result).control = s.control := by cases p <;> rfl
  unfold State.drainEnds
  rw [h]
  split
  · split
    · exact ((changeMode_blind _ _).comp activateClaim_blind) _ _ _ _
    · exact ((changeMode_blind _ _).comp activateClaim_blind) _ _ _ _
    · rfl
  · rfl

theorem writerIdle_blind : Blind State.writerIdle := (setWriter_blind _ _ _).comp drainEnds_blind

theorem becomeBlocked_blind : Blind State.becomeBlocked := by
  intro s p code result
  have h : (s.answer p code result).writer = s.writer := by cases p <;> rfl
  have hs : (s.answer p code result).segs = s.segs := by cases p <;> rfl
  unfold State.becomeBlocked
  rw [h, hs]
  split
  · exact setWriter_blind ..
  · exact ((setWriter_blind _ _ _).comp (handAll_blind _)) _ _ _ _

theorem holdHead_blind (fresh : Bool) : Blind (·.holdHead fresh) := by
  intro s p code result
  have h : (s.answer p code result).writer = s.writer := by cases p <;> rfl
  have hl : (s.answer p code result).holdLimit = s.holdLimit := by cases p <;> rfl
  dsimp only
  unfold State.holdHead
  rw [h, hl]
  split
  · exact setHoldTimer_blind ..
  · rfl

theorem demoteAndWait_blind : Blind State.demoteAndWait := by
  intro s p code result
  have h : ∀ s : State, (s.answer p code result).producible = s.producible := by intro s; cases p <;> rfl
  unfold State.demoteAndWait
  simp only
  rw [← demoteForSpace_blind, h, setWriter_blind]

theorem examine_blind : ∀ (fuel : Nat) (fresh : Bool), Blind (State.examine fuel fresh)
  | 0, _ => .id
  | fuel + 1, fresh => by
    intro s p code result
    have h : (s.answer p code result).writer = s.writer := by cases p <;> rfl
    have hx : (s.answer p code result).exhausted = s.exhausted := by cases p <;> rfl
    have hc : ∀ e, (s.answer p code result).canProceed e = s.canProceed e := by intro e; cases p <;> rfl
    have hp : (s.answer p code result).producible = s.producible := by cases p <;> rfl
    have ho : (s.answer p code result).store = s.store := by cases p <;> rfl
    unfold State.examine
    simp only [h, hx, hc, hp, ho]
    split
    · exact writerIdle_blind ..
    · split
      · exact ((leaveHead_blind _ _ _).comp (examine_blind fuel true)) _ _ _ _
      · split
        · exact setWriter_blind ..
        · split
          · exact setWriter_blind ..
          · split
            · exact (becomeBlocked_blind.comp (holdHead_blind fresh)) _ _ _ _
            · exact (((becomeBlocked_blind.comp (setHoldTimer_blind none)).comp (leaveHead_blind _ _ _)).comp
                (examine_blind fuel true)) _ _ _ _
            · exact (becomeBlocked_blind.comp demoteAndWait_blind) _ _ _ _
            · exact (becomeBlocked_blind.comp (setHoldTimer_blind none)) _ _ _ _

theorem examineHead_blind : Blind State.examineHead := by
  intro s p code result
  have h : (s.answer p code result).writer = s.writer := by cases p <;> rfl
  unfold State.examineHead
  rw [h]
  exact examine_blind ..

theorem redecidePressure_blind : Blind State.redecidePressure := by
  intro s p code result
  have h : (s.answer p code result).writer = s.writer := by cases p <;> rfl
  have hp : (s.answer p code result).producible = s.producible := by cases p <;> rfl
  unfold State.redecidePressure State.awaitSpace
  rw [h, hp]
  split
  · split
    · exact setWriter_blind ..
    · split
      · rfl
      · exact examine_blind ..
  · rfl

/-! ### What follows the command -/

theorem chooseNothing_blind : Blind State.chooseNothing :=
  Blind.comp (f := fun s => { s with reclaim := .idle }) (fun s p code result => by cases p <;> rfl)
    redecidePressure_blind

theorem appendGranted_blind : Blind State.appendGranted := by
  intro s p code result
  cases p <;> rfl

theorem hold_blind (g : Grant) : Blind (·.hold g) := by
  intro s p code result
  cases p <;> rfl

theorem beginWriting_blind (e : Entry) : Blind (·.beginWriting e) := by
  intro s p code result
  dsimp only
  unfold State.beginWriting
  split
  · cases p <;> rfl
  · rename_i q b _ _ _
    cases p <;> cases q <;> cases b <;> rfl

theorem writeHead_blind : Blind State.writeHead := by
  intro s p code result
  have h : (s.answer p code result).writer = s.writer := by cases p <;> rfl
  unfold State.writeHead
  rw [h]
  split
  · rfl
  · exact beginWriting_blind ..

variable (s : State) (p : Port) (code : Code) (result : List Byte)

theorem emptyGrant_answer (d : Decision) :
    (s.answer p code result).emptyGrant d = (s.emptyGrant d).map (·.answer p code result) := by
  cases d with
  | retire =>
    have h : (s.answer p code result).retireFinds = s.retireFinds := by cases p <;> rfl
    unfold State.emptyGrant
    simp only [h, ← chooseNothing_blind s p code result]
    split <;> rfl
  | append =>
    have h : (s.answer p code result).headProceeds = s.headProceeds := by cases p <;> rfl
    unfold State.emptyGrant
    simp only [h, ← (appendGranted_blind.comp examineHead_blind) s p code result]
    split <;> rfl
  | _ => rfl

theorem makeGrant_blind (d : Decision) : Blind (·.makeGrant d) := by
  cases d with
  | append => exact (appendGranted_blind.comp writeHead_blind).comp (hold_blind .append)
  | _ => intro s p code result; cases p <;> rfl

theorem examineRequests_blind : Blind State.examineRequests := by
  intro s p code result
  unfold State.examineRequests
  rw [State.answer, State.answer, examineReclaim_modPort, suspendIfMet_modPort]

theorem decisions_blind : ∀ fuel : Nat, Blind (State.decisions fuel)
  | 0 => .id
  | fuel + 1 => by
    intro s p code result
    have f : ∀ t : State, (t.answer p code result).arrayFree = t.arrayFree := by intro t; cases p <;> rfl
    have e : ∀ t : State, (t.answer p code result).decideFree = t.decideFree := by intro t; cases p <;> rfl
    unfold State.decisions
    have r : (s.answer p code result).examineRequests = s.examineRequests.answer p code result :=
      (examineRequests_blind ..).symm
    simp only [r, f, e, emptyGrant_answer]
    split
    · cases s.examineRequests.emptyGrant s.examineRequests.decideFree with
      | none => exact makeGrant_blind ..
      | some u => exact decisions_blind fuel ..
    · rfl

/-- The answer to a frame and what follows the command may be taken in either order. -/
theorem answer_settle : s.settle.answer p code result = (s.answer p code result).settle := decisions_blind 3 ..

end Sys2Proof.Machine
end

