-- ==== Sys2Proof/Laws/Memory.lean ====
section
/-! SUPPORT. The array's laws: what a write, a program and an erase leave to be read, and that each keeps the canonical
form. -/

namespace Sys2Proof.Machine

set_option Elab.async false

/-! ### Canonical form -/

theorem wfFrom_mono {low low' : Nat} (h : low ≤ low') : ∀ {m : Memory}, m.wfFrom low' = true → m.wfFrom low = true
  | [], _ => rfl
  | (k, v) :: m, hm => by
    simp only [Memory.wfFrom, Bool.and_eq_true, decide_eq_true_eq] at hm ⊢
    exact ⟨⟨⟨Nat.le_trans h hm.1.1.1, hm.1.1.2⟩, hm.1.2⟩, hm.2⟩

/-- A listed address is never below the bound, so an address below it reads as erased. -/
theorem read_below {low a : Nat} (h : a < low) : ∀ {m : Memory}, m.wfFrom low = true → m.read a = erasedByte
  | [], _ => rfl
  | (k, v) :: m, hm => by
    simp only [Memory.wfFrom, Bool.and_eq_true, decide_eq_true_eq] at hm
    have hk : a ≠ k := by omega
    simp only [Memory.read, hk, if_false]
    exact read_below (by omega) hm.2

/-- `put` keeps the canonical form. -/
theorem wfFrom_put {a : Nat} (b : Byte) (ha : a < Config.arrayBytes) :
    ∀ {low : Nat} {m : Memory}, low ≤ a → m.wfFrom low = true → (m.put a b).wfFrom low = true
  | low, [], hl, _ => by
    unfold Memory.put
    split
    · rfl
    · simp_all [Memory.wfFrom]
  | low, (k, v) :: m, hl, hm => by
    have hm' := hm
    simp only [Memory.wfFrom, Bool.and_eq_true, decide_eq_true_eq] at hm
    obtain ⟨⟨⟨h1, h2⟩, h3⟩, h4⟩ := hm
    unfold Memory.put
    split
    · split
      · exact hm'
      · rename_i hlt hb
        simp only [Memory.wfFrom, Bool.and_eq_true, decide_eq_true_eq]
        exact ⟨⟨⟨hl, ha⟩, by simpa using hb⟩, ⟨⟨by omega, h2⟩, h3⟩, h4⟩
    · split
      · rename_i he
        split
        · exact wfFrom_mono (by omega) h4
        · rename_i hb
          simp only [Memory.wfFrom, Bool.and_eq_true, decide_eq_true_eq]
          exact ⟨⟨⟨hl, ha⟩, by simpa using hb⟩, he ▸ h4⟩
      · simp only [Memory.wfFrom, Bool.and_eq_true, decide_eq_true_eq]
        exact ⟨⟨⟨h1, h2⟩, h3⟩, wfFrom_put b ha (by omega) h4⟩

theorem wf_put {m : Memory} {a : Nat} (b : Byte) (ha : a < Config.arrayBytes) (h : m.wf = true) :
    (m.put a b).wf = true := wfFrom_put b ha (Nat.zero_le a) h

theorem wf_write {m : Memory} (a : Nat) (b : Byte) (h : m.wf = true) : (m.write a b).wf = true := by
  unfold Memory.write
  split
  · rename_i ha; exact wf_put b ha h
  · exact h

theorem wf_writeBytes {m : Memory} (bytes : List Byte) (h : m.wf = true) :
    ∀ a : Nat, (m.writeBytes a bytes).wf = true := by
  induction bytes generalizing m with
  | nil => exact fun _ => h
  | cons b bytes ih => exact fun a => ih (wf_write a b h) (a + 1)

/-- A program keeps the canonical form, whatever the array answers. -/
theorem wf_program {m : Memory} (a : Nat) (data : List Byte) (answer : Programmed) (h : m.wf = true) :
    (m.program a data answer).1.wf = true := wf_writeBytes _ h a

theorem wfFrom_filter {p : Host.Cell → Bool} :
    ∀ {low : Nat} {m : Memory}, m.wfFrom low = true → Memory.wfFrom low (m.filter p) = true
  | _, [], _ => rfl
  | low, (k, v) :: m, hm => by
    simp only [Memory.wfFrom, Bool.and_eq_true, decide_eq_true_eq] at hm
    obtain ⟨⟨⟨h1, h2⟩, h3⟩, h4⟩ := hm
    rw [List.filter_cons]
    split
    · simp only [Memory.wfFrom, Bool.and_eq_true, decide_eq_true_eq]
      exact ⟨⟨⟨h1, h2⟩, h3⟩, wfFrom_filter h4⟩
    · exact wfFrom_mono (by omega) (wfFrom_filter h4)

theorem wf_clearSegment {m : Memory} (i : Nat) (h : m.wf = true) : (m.clearSegment i).wf = true := wfFrom_filter h

theorem wf_leaveBytes {m : Memory} (i : Nat) (bytes : List (Nat × Byte)) (h : m.wf = true) :
    (m.leaveBytes i bytes).wf = true := by
  induction bytes generalizing m with
  | nil => exact h
  | cons c rest ih =>
    obtain ⟨o, b⟩ := c
    unfold Memory.leaveBytes
    split
    · exact ih (wf_write _ b h)
    · exact ih h

/-- An erase keeps the canonical form, whatever it leaves. -/
theorem wf_eraseSegment {m : Memory} (i : Nat) (result : Erased) (h : m.wf = true) :
    (m.eraseSegment i result).wf = true := by
  cases result with
  | clean => exact wf_clearSegment i h
  | left bytes => exact wf_leaveBytes i bytes (wf_clearSegment i h)

/-! ### Reading back -/

/-- A byte put elsewhere does not change what an address reads. -/
theorem read_put_ne {a a' : Nat} (b : Byte) (h : a' ≠ a) : ∀ m : Memory, (m.put a b).read a' = m.read a'
  | [] => by
    unfold Memory.put
    split <;> simp [Memory.read, h]
  | (k, v) :: m => by
    unfold Memory.put
    split
    · split
      · rfl
      · simp [Memory.read, h]
    · split
      · rename_i hk
        subst hk
        split <;> simp [Memory.read, h]
      · simp only [Memory.read]
        split
        · rfl
        · exact read_put_ne b h m

/-- In canonical form, the byte put is the byte read. -/
theorem read_put_self {a : Nat} (b : Byte) :
    ∀ {low : Nat} {m : Memory}, m.wfFrom low = true → (m.put a b).read a = b
  | _, [], _ => by
    unfold Memory.put
    split
    · rename_i hb; exact hb.symm
    · simp [Memory.read]
  | low, (k, v) :: m, hm => by
    simp only [Memory.wfFrom, Bool.and_eq_true, decide_eq_true_eq] at hm
    unfold Memory.put
    split
    · rename_i hlt
      split
      · rename_i hb
        simp only [Memory.read, show a ≠ k by omega, if_false]
        rw [read_below (by omega) hm.2, hb]
      · simp [Memory.read]
    · split
      · rename_i hk
        split
        · rename_i hb
          rw [read_below (by omega) hm.2, hb]
        · simp [Memory.read]
      · rename_i hk
        simp only [Memory.read, hk, if_false]
        exact read_put_self b hm.2

theorem read_write_ne {m : Memory} {a a' : Nat} (b : Byte) (h : a' ≠ a) : (m.write a b).read a' = m.read a' := by
  unfold Memory.write
  split
  · exact read_put_ne b h m
  · rfl

theorem read_write_self {m : Memory} {a : Nat} (b : Byte) (h : m.wf = true) (ha : a < Config.arrayBytes) :
    (m.write a b).read a = b := by
  simp only [Memory.write, ha, if_true]
  exact read_put_self b h

/-- A run of bytes changes nothing outside its addresses. -/
theorem read_writeBytes_outside (bytes : List Byte) :
    ∀ (m : Memory) (a : Nat) {a' : Nat}, (a' < a ∨ a + bytes.length ≤ a') →
      (m.writeBytes a bytes).read a' = m.read a' := by
  induction bytes with
  | nil => exact fun _ _ _ _ => rfl
  | cons b bytes ih =>
    intro m a a' h
    simp only [List.length_cons] at h
    rw [Memory.writeBytes, ih _ _ (by omega), read_write_ne b (by omega)]

/-- A run of bytes in the array reads back. -/
theorem read_writeBytes_inside (bytes : List Byte) :
    ∀ {m : Memory} {a : Nat} (_ : m.wf = true) (_ : a + bytes.length ≤ Config.arrayBytes) (i : Nat)
      (h : i < bytes.length), (m.writeBytes a bytes).read (a + i) = bytes[i] := by
  induction bytes with
  | nil => intro m a _ _ i h; simp at h
  | cons b bytes ih =>
    intro m a hm ha i h
    simp only [List.length_cons] at ha h
    cases i with
    | zero =>
      simp only [Memory.writeBytes, Nat.add_zero, List.getElem_cons_zero]
      rw [read_writeBytes_outside bytes _ _ (Or.inl (by omega))]
      exact read_write_self b hm (by omega)
    | succ i =>
      simp only [Memory.writeBytes, List.getElem_cons_succ]
      rw [show a + (i + 1) = (a + 1) + i by omega]
      exact ih (wf_write a b hm) (by omega) i (by omega)

@[simp] theorem readBytes_length (m : Memory) (n : Nat) : ∀ a, (m.readBytes a n).length = n := by
  induction n with
  | zero => exact fun _ => rfl
  | succ n ih => exact fun a => by simp [Memory.readBytes, ih]

theorem readBytes_getElem (m : Memory) (n : Nat) :
    ∀ (a i : Nat) (h : i < (m.readBytes a n).length), (m.readBytes a n)[i] = m.read (a + i) := by
  induction n with
  | zero => intro a i h; simp at h
  | succ n ih =>
    intro a i h
    cases i with
    | zero => simp [Memory.readBytes]
    | succ i =>
      simp only [Memory.readBytes, List.getElem_cons_succ]
      rw [ih, show a + 1 + i = a + (i + 1) by omega]

/-- A byte that is not listed reads as erased. -/
theorem read_unlisted {a : Nat} : ∀ {m : Memory}, (∀ c ∈ m, c.1 ≠ a) → m.read a = erasedByte
  | [], _ => rfl
  | (k, v) :: m, h => by
    rw [Memory.read, if_neg fun e => h (k, v) (List.mem_cons_self ..) e.symm]
    exact read_unlisted fun c hc => h c (List.mem_cons_of_mem _ hc)

/-- Two runs of addresses that read alike read the same run of bytes. -/
theorem readBytes_shift (m m' : Memory) (n : Nat) :
    ∀ a a', (∀ i < n, m.read (a + i) = m'.read (a' + i)) → m.readBytes a n = m'.readBytes a' n := by
  induction n with
  | zero => exact fun _ _ _ => rfl
  | succ n ih =>
    intro a a' h
    have h0 := h 0 (by omega)
    simp only [Nat.add_zero] at h0
    simp only [Memory.readBytes, h0]
    congr 1
    exact ih (a + 1) (a' + 1) fun i hi => by
      have := h (i + 1) (by omega)
      rwa [show a + (i + 1) = a + 1 + i by omega, show a' + (i + 1) = a' + 1 + i by omega] at this

/-- Two arrays that agree on a run of addresses read the same run of bytes. -/
theorem readBytes_congr (m m' : Memory) (n a : Nat) (h : ∀ i < n, m.read (a + i) = m'.read (a + i)) :
    m.readBytes a n = m'.readBytes a n :=
  readBytes_shift m m' n a a h

/-- A run of bytes written in the array reads back as a run. -/
theorem readBytes_writeBytes (m : Memory) (a : Nat) (bytes : List Byte) (hm : m.wf = true)
    (ha : a + bytes.length ≤ Config.arrayBytes) : (m.writeBytes a bytes).readBytes a bytes.length = bytes := by
  apply List.ext_getElem
  · simp
  · intro i h1 h2
    rw [readBytes_getElem]
    exact read_writeBytes_inside bytes hm ha i h2

/-! ### Programs -/

@[simp] theorem attempted_length (data : List Byte) (answer : Programmed) :
    (attempted data answer).length = data.length := by
  cases answer <;> simp [attempted]

theorem programmedBytes_length : ∀ old data : List Byte, old.length = data.length →
    (programmedBytes old data).length = data.length
  | [], [], _ => rfl
  | [], _ :: _, h => by simp at h
  | _ :: _, [], h => by simp at h
  | o :: old, d :: data, h => by
    simp only [programmedBytes, List.length_cons]
    rw [programmedBytes_length old data (by simpa using h)]

/-- A program over erased bytes leaves what was to be programmed. -/
theorem programmedBytes_erased : ∀ old data : List Byte, old.length = data.length → allErased old = true →
    programmedBytes old data = data
  | [], [], _, _ => rfl
  | [], _ :: _, h, _ => by simp at h
  | _ :: _, [], h, _ => by simp at h
  | o :: old, d :: data, h, he => by
    simp only [allErased, List.all_cons, Bool.and_eq_true, beq_iff_eq] at he
    have hd : o &&& d = d := by rw [he.1]; exact BitVec.allOnes_and
    simp only [programmedBytes, hd]
    rw [programmedBytes_erased old data (by simpa using h) he.2]

/-- A program that the array carries out over erased words verifies. -/
theorem program_blank_verifies (m : Memory) (a : Nat) (data : List Byte) (h : m.blank a data.length = true) :
    (m.program a data .done).2 = true := by
  simp only [Memory.program, attempted]
  rw [programmedBytes_erased _ _ (by simp) h]
  simp

/-- A program changes nothing outside its words. -/
theorem read_program_outside (m : Memory) (a : Nat) (data : List Byte) (answer : Programmed) {a' : Nat}
    (h : a' < a ∨ a + data.length ≤ a') : (m.program a data answer).1.read a' = m.read a' := by
  apply read_writeBytes_outside
  rw [programmedBytes_length _ _ (by simp), attempted_length]
  exact h

/-- A program whose verify succeeds leaves its words reading as they were to be programmed. -/
theorem readBytes_program (m : Memory) (a : Nat) (data : List Byte) (answer : Programmed) (hm : m.wf = true)
    (ha : a + data.length ≤ Config.arrayBytes) (hv : (m.program a data answer).2 = true) :
    (m.program a data answer).1.readBytes a data.length = data := by
  simp only [Memory.program, beq_iff_eq] at hv ⊢
  rw [hv]
  exact readBytes_writeBytes m a data hm ha

/-! ### Erases -/

/-- An address in no part of a segment. -/
def OutsideSegment (a i : Nat) : Prop := a < address i 0 ∨ address (i + 1) 0 ≤ a

theorem read_filter_of {p : Host.Cell → Bool} {a : Nat} (h : ∀ v, p (a, v) = true) :
    ∀ m : Memory, Memory.read (m.filter p) a = m.read a
  | [] => rfl
  | (k, v) :: m => by
    rw [List.filter_cons]
    by_cases hk : a = k
    · subst hk
      simp [h v, Memory.read]
    · split
      · simp only [Memory.read, hk, if_false]
        exact read_filter_of h m
      · simp only [Memory.read, hk, if_false]
        exact read_filter_of h m

theorem read_filter_not {p : Host.Cell → Bool} {a : Nat} (h : ∀ v, p (a, v) = false) :
    ∀ m : Memory, Memory.read (m.filter p) a = erasedByte
  | [] => rfl
  | (k, v) :: m => by
    rw [List.filter_cons]
    by_cases hk : a = k
    · subst hk
      simp only [h v]
      exact read_filter_not h m
    · split
      · simp only [Memory.read, hk, if_false]
        exact read_filter_not h m
      · exact read_filter_not h m

/-- A wholly erased segment reads erased in every byte. -/
theorem read_clearSegment_inside (m : Memory) {i a : Nat} (h : ¬ OutsideSegment a i) :
    (m.clearSegment i).read a = erasedByte := by
  apply read_filter_not
  intro v
  simp only [OutsideSegment, not_or] at h
  simp [h.1, h.2]

theorem read_clearSegment_outside (m : Memory) {i a : Nat} (h : OutsideSegment a i) :
    (m.clearSegment i).read a = m.read a := by
  apply read_filter_of
  intro v
  simpa [OutsideSegment] using h

theorem read_leaveBytes_outside {i a : Nat} (h : OutsideSegment a i) (bytes : List (Nat × Byte)) :
    ∀ m : Memory, (m.leaveBytes i bytes).read a = m.read a := by
  induction bytes with
  | nil => exact fun _ => rfl
  | cons c rest ih =>
    intro m
    obtain ⟨o, b⟩ := c
    unfold Memory.leaveBytes
    split
    · rename_i ho
      rw [ih, read_write_ne b]
      simp only [OutsideSegment, address, Config.segmentBytes] at h ho ⊢
      omega
    · exact ih m

/-- An erase changes nothing outside its segment. -/
theorem read_eraseSegment_outside (m : Memory) {i a : Nat} (result : Erased) (h : OutsideSegment a i) :
    (m.eraseSegment i result).read a = m.read a := by
  cases result with
  | clean => exact read_clearSegment_outside m h
  | left bytes => rw [Memory.eraseSegment, read_leaveBytes_outside h, read_clearSegment_outside m h]

/-- An erase that leaves nothing verifies. -/
theorem segmentBlank_clearSegment (m : Memory) (i : Nat) : (m.clearSegment i).segmentBlank i = true := by
  simp only [Memory.segmentBlank, Memory.clearSegment, List.all_filter]
  apply List.all_eq_true.mpr
  intro c _
  simp only [Bool.or_eq_true, decide_eq_true_eq, Bool.not_or, Bool.not_eq_true', Bool.and_eq_true]
  by_cases h : c.1 < address i 0 ∨ address (i + 1) 0 ≤ c.1 <;> simp <;> omega

end Sys2Proof.Machine
end

