-- ==== Sys2Proof/Laws/Classes.lean ====
section
/-! SUPPORT. The laws of an unfinished erase: each form of it keeps the canonical form and leaves every other segment alone,
and a stopped one is found as R119 says. -/

namespace Sys2Proof.Machine

set_option Elab.async false

variable {m : Memory}

/-! ### Canonical form and frame -/

theorem wf_leaveUnfinished (i : Nat) (classes : SegClass → Bool) (h : m.wf = true) :
    (m.leaveUnfinished i classes).wf = true := by
  unfold Memory.leaveUnfinished
  split
  · exact h
  · exact wf_eraseSegment i _ h

theorem wf_stopErase (i : Nat) (h : m.wf = true) : (m.stopErase i).wf = true := wf_leaveUnfinished i _ h

theorem wf_endErase (i : Nat) (result : Erased) (h : m.wf = true) : (m.endErase i result).wf = true := by
  cases result with
  | clean => exact wf_eraseSegment i .clean h
  | left bytes => exact wf_leaveUnfinished i _ (wf_eraseSegment i _ h)

theorem read_leaveUnfinished_outside (m : Memory) {i a : Nat} (classes : SegClass → Bool) (h : OutsideSegment a i) :
    (m.leaveUnfinished i classes).read a = m.read a := by
  unfold Memory.leaveUnfinished
  split
  · rfl
  · exact read_eraseSegment_outside m _ h

theorem read_stopErase_outside (m : Memory) {i a : Nat} (h : OutsideSegment a i) :
    (m.stopErase i).read a = m.read a := read_leaveUnfinished_outside m _ h

theorem read_endErase_outside (m : Memory) {i a : Nat} (result : Erased) (h : OutsideSegment a i) :
    (m.endErase i result).read a = m.read a := by
  cases result with
  | clean => exact read_eraseSegment_outside m .clean h
  | left bytes => exact (read_leaveUnfinished_outside _ _ h).trans (read_eraseSegment_outside m _ h)

/-! ### What mount finds -/

/-- The bytes of a segment of which an unfinished erase leaves nothing but a damaged ERASED group. -/
theorem read_damaged (hm : m.wf = true) {i o : Nat} (hi : i < 64) (ho : o < Config.segmentBytes) :
    (m.eraseSegment i (.left [(erasedOffset, 0x00#8)])).read (address i o) =
      if o = 0 then 0x00#8 else erasedByte := by
  have inside : ¬ OutsideSegment (address i o) i := by
    simp only [OutsideSegment, address, Config.segmentBytes] at ho ⊢
    omega
  simp only [Memory.eraseSegment, Memory.leaveBytes, erasedOffset,
    show (0 : Nat) < Config.segmentBytes from by decide, if_true]
  by_cases h0 : o = 0
  · subst h0
    rw [read_write_self _ (wf_clearSegment i hm) (by simp only [address, Config.segmentBytes, Config.arrayBytes]; omega)]
    rfl
  · rw [read_write_ne _ (by simp only [address]; omega), read_clearSegment_inside m inside]
    simp [h0]

/-- The run of bytes of such a segment from an offset on is that of an array that holds the damaged byte and no other. -/
theorem readBytes_damaged (hm : m.wf = true) {i o n : Nat} (hi : i < 64) (ho : o + n ≤ Config.segmentBytes) :
    (m.eraseSegment i (.left [(erasedOffset, 0x00#8)])).readBytes (address i o) n =
      Memory.readBytes [(0, 0x00#8)] o n := by
  apply List.ext_getElem
  · simp
  · intro k hk _
    rw [readBytes_length] at hk
    rw [readBytes_getElem, readBytes_getElem, show address i o + k = address i (o + k) from by
      simp only [address]; omega, read_damaged hm hi (by omega)]
    simp only [Memory.read]

/-- R119: an erase that a reset stops leaves a journal segment that mount finds DIRTY, and an invalid copy. -/
theorem stopErase_found (hm : m.wf = true) {i : Nat} (hi : i < 64) :
    (m.stopErase i).foundUnfinished i (· = .dirty) = true := by
  unfold Memory.stopErase Memory.leaveUnfinished
  split
  · assumption
  · unfold Memory.foundUnfinished
    split
    · have c : ∀ o n, o + n ≤ Config.segmentBytes →
          (m.eraseSegment i (.left [(erasedOffset, 0x00#8)])).readBytes (address i o) n =
            Memory.readBytes [(0, 0x00#8)] o n := fun o n => readBytes_damaged hm hi
      simp only [readCopy, Memory.number, c 0 36 (by decide), c 36 4 (by decide)]
      decide +kernel
    · have c : ∀ o n, o + n ≤ Config.segmentBytes →
          (m.eraseSegment i (.left [(erasedOffset, 0x00#8)])).readBytes (address i o) n =
            Memory.readBytes [(0, 0x00#8)] o n := fun o n => readBytes_damaged hm hi
      have b : badPresent (m.eraseSegment i (.left [(erasedOffset, 0x00#8)])) i = false := by
        simp only [badPresent, Memory.blank, badOffset, c 48 8 (by decide)]
        decide +kernel
      have e : readErased (m.eraseSegment i (.left [(erasedOffset, 0x00#8)])) i ≠ .valid := by
        simp only [readErased, readGroup, Memory.blank, erasedOffset] at c ⊢
        simp only [c 0 10 (by decide), c 0 12 (by decide)]
        decide +kernel
      simp [classify, b, e]

end Sys2Proof.Machine
end

