-- ==== Sys2Proof/Laws/Layout.lean ====
section
/-! SUPPORT. What a record depends on. -/

namespace Sys2Proof.Machine

set_option Elab.async false

/-- R8, R9: what stands at a line depends on the 32 bytes of its header lines alone. -/
theorem recordAt_congr {m m' : Memory} {i i' line line' : Nat}
    (h : ∀ o < 32, m.read (lineAddress i line + o) = m'.read (lineAddress i' line' + o)) :
    recordAt m i line = recordAt m' i' line' := by
  have run (o n : Nat) (hn : o + n ≤ 32) :
      m.readBytes (lineAddress i line + o) n = m'.readBytes (lineAddress i' line' + o) n :=
    readBytes_shift m m' n _ _ fun k hk => by
      simpa only [Nat.add_assoc] using h (o + k) (by omega)
  have start (n : Nat) (hn : n ≤ 32) : m.readBytes (lineAddress i line) n = m'.readBytes (lineAddress i' line') n :=
    run 0 n (by omega)
  have b0 : m.read (lineAddress i line) = m'.read (lineAddress i' line') := h 0 (by omega)
  simp only [recordAt, voidPresent, headerPasses, commitPresent, readHeader, Memory.blank, Memory.number,
    Config.lineBytes, start, run, h, b0, Nat.reduceAdd, Nat.reduceLeDiff, Nat.reduceLT]
  rfl

end Sys2Proof.Machine
end

