-- ==== Sys2Proof/Laws/PerInstr.lean ====
section
/-! SUPPORT. A law of the syntax, command by command: how long the operands of a command's frame can be. -/

namespace Sys2Proof.Laws.OperandCount

set_option Elab.async false

/-- R177, R192: the operands of a well-formed host command take at most 67 bytes, so that their number stands in the one
count byte of its frame and the frame takes at most 70 bytes. -/
def Statement (i : Instr) : Prop :=
  i.wf = true → ∀ (p : Port) (code : Byte) (operands : List Byte), encodeCommand i = some (p, code, operands) →
    operands.length ≤ 67

theorem readStatus (port : Port) : Statement (.readStatus port) := by
  intro _ p code operands e
  simp only [encodeCommand, Option.some.injEq, Prod.mk.injEq] at e
  simp [← e.2.2]

theorem attach (port : Port) (lease mask : Byte) : Statement (.attach port lease mask) := by
  intro _ p code operands e
  simp only [encodeCommand, Option.some.injEq, Prod.mk.injEq] at e
  simp [← e.2.2]

theorem detach (port : Port) : Statement (.detach port) := by
  intro _ p code operands e
  simp only [encodeCommand, Option.some.injEq, Prod.mk.injEq] at e
  simp [← e.2.2]

theorem readClock (port : Port) : Statement (.readClock port) := by
  intro _ p code operands e
  simp only [encodeCommand, Option.some.injEq, Prod.mk.injEq] at e
  simp [← e.2.2]

theorem queryJournal (port : Port) : Statement (.queryJournal port) := by
  intro _ p code operands e
  simp only [encodeCommand, Option.some.injEq, Prod.mk.injEq] at e
  simp [← e.2.2]

theorem querySegment (port : Port) (index : Byte) : Statement (.querySegment port index) := by
  intro _ p code operands e
  simp only [encodeCommand, Option.some.injEq, Prod.mk.injEq] at e
  simp [← e.2.2]

theorem beginRecord (port : Port) (buffer stream : Byte) (length : BitVec 16) : Statement (.beginRecord port buffer stream length) := by
  intro _ p code operands e
  simp only [encodeCommand, Option.some.injEq, Prod.mk.injEq] at e
  simp [← e.2.2, bytes2]

theorem load (port : Port) (buffer : Byte) (offset : BitVec 16) (bytes : List Byte) : Statement (.load port buffer offset bytes) := by
  intro h p code operands e
  simp only [encodeCommand, Option.some.injEq, Prod.mk.injEq] at e
  obtain ⟨-, -, rfl⟩ := e
  simp only [Instr.wf, Bool.and_eq_true, decide_eq_true_eq] at h
  simp [bytes2]
  omega

theorem abandon (port : Port) (buffer : Byte) : Statement (.abandon port buffer) := by
  intro _ p code operands e
  simp only [encodeCommand, Option.some.injEq, Prod.mk.injEq] at e
  simp [← e.2.2]

theorem commit (port : Port) (buffer tag : Byte) : Statement (.commit port buffer tag) := by
  intro _ p code operands e
  simp only [encodeCommand, Option.some.injEq, Prod.mk.injEq] at e
  simp [← e.2.2]

theorem openCursor (port : Port) (filter : BitVec 16) (start mode : Byte) : Statement (.openCursor port filter start mode) := by
  intro _ p code operands e
  simp only [encodeCommand, Option.some.injEq, Prod.mk.injEq] at e
  simp [← e.2.2, bytes2]

theorem closeCursor (port : Port) (id : Byte) : Statement (.closeCursor port id) := by
  intro _ p code operands e
  simp only [encodeCommand, Option.some.injEq, Prod.mk.injEq] at e
  simp [← e.2.2]

theorem seek (port : Port) (id : Byte) (position : BitVec 48) : Statement (.seek port id position) := by
  intro _ p code operands e
  simp only [encodeCommand, Option.some.injEq, Prod.mk.injEq] at e
  simp [← e.2.2, bytes6]

theorem ack (port : Port) (id : Byte) (position : BitVec 48) : Statement (.ack port id position) := by
  intro _ p code operands e
  simp only [encodeCommand, Option.some.injEq, Prod.mk.injEq] at e
  simp [← e.2.2, bytes6]

theorem rewind (port : Port) (id : Byte) : Statement (.rewind port id) := by
  intro _ p code operands e
  simp only [encodeCommand, Option.some.injEq, Prod.mk.injEq] at e
  simp [← e.2.2]

theorem setCursorMode (port : Port) (id mode : Byte) : Statement (.setCursorMode port id mode) := by
  intro _ p code operands e
  simp only [encodeCommand, Option.some.injEq, Prod.mk.injEq] at e
  simp [← e.2.2]

theorem queryCursor (port : Port) (id : Byte) : Statement (.queryCursor port id) := by
  intro _ p code operands e
  simp only [encodeCommand, Option.some.injEq, Prod.mk.injEq] at e
  simp [← e.2.2]

theorem readNext (port : Port) (id tag : Byte) (wait : BitVec 16) : Statement (.readNext port id tag wait) := by
  intro _ p code operands e
  simp only [encodeCommand, Option.some.injEq, Prod.mk.injEq] at e
  simp [← e.2.2, bytes2]

theorem readWindow (port : Port) (offset : BitVec 16) (count : Byte) : Statement (.readWindow port offset count) := by
  intro _ p code operands e
  simp only [encodeCommand, Option.some.injEq, Prod.mk.injEq] at e
  simp [← e.2.2, bytes2]

theorem takeCompletion (port : Port) (which : Byte) : Statement (.takeCompletion port which) := by
  intro _ p code operands e
  simp only [encodeCommand, Option.some.injEq, Prod.mk.injEq] at e
  simp [← e.2.2]

theorem takeNotice (port : Port) (which : Byte) : Statement (.takeNotice port which) := by
  intro _ p code operands e
  simp only [encodeCommand, Option.some.injEq, Prod.mk.injEq] at e
  simp [← e.2.2]

theorem claimService (port : Port) (tag : Byte) : Statement (.claimService port tag) := by
  intro _ p code operands e
  simp only [encodeCommand, Option.some.injEq, Prod.mk.injEq] at e
  simp [← e.2.2]

theorem releaseService (port : Port) : Statement (.releaseService port) := by
  intro _ p code operands e
  simp only [encodeCommand, Option.some.injEq, Prod.mk.injEq] at e
  simp [← e.2.2]

theorem format (port : Port) (tag : Byte) : Statement (.format port tag) := by
  intro _ p code operands e
  simp only [encodeCommand, Option.some.injEq, Prod.mk.injEq] at e
  simp [← e.2.2]

theorem readConfig (port : Port) (which : Byte) : Statement (.readConfig port which) := by
  intro _ p code operands e
  simp only [encodeCommand, Option.some.injEq, Prod.mk.injEq] at e
  simp [← e.2.2]

theorem editStream (port : Port) (stream writers closed : Byte) : Statement (.editStream port stream writers closed) := by
  intro _ p code operands e
  simp only [encodeCommand, Option.some.injEq, Prod.mk.injEq] at e
  simp [← e.2.2]

theorem editRights (port : Port) (rights : Byte) : Statement (.editRights port rights) := by
  intro _ p code operands e
  simp only [encodeCommand, Option.some.injEq, Prod.mk.injEq] at e
  simp [← e.2.2]

theorem editPolicy (port : Port) (policy hold target slice : Byte) : Statement (.editPolicy port policy hold target slice) := by
  intro _ p code operands e
  simp only [encodeCommand, Option.some.injEq, Prod.mk.injEq] at e
  simp [← e.2.2]

theorem commitConfig (port : Port) (tag : Byte) : Statement (.commitConfig port tag) := by
  intro _ p code operands e
  simp only [encodeCommand, Option.some.injEq, Prod.mk.injEq] at e
  simp [← e.2.2]

theorem lockConfig (port : Port) : Statement (.lockConfig port) := by
  intro _ p code operands e
  simp only [encodeCommand, Option.some.injEq, Prod.mk.injEq] at e
  simp [← e.2.2]

theorem frameError (port : Port) (cause : FrameFault) : Statement (.frameError port cause) := by
  intro _ p code operands e
  simp [encodeCommand] at e

theorem resetAsserted (cut : Cut) : Statement (.resetAsserted cut) := by
  intro _ p code operands e
  simp [encodeCommand] at e

theorem resetReleased : Statement (.resetReleased) := by
  intro _ p code operands e
  simp [encodeCommand] at e

theorem mountScan (media : List Programmed) : Statement (.mountScan media) := by
  intro _ p code operands e
  simp [encodeCommand] at e

theorem appendWriteOut (media : List Programmed) : Statement (.appendWriteOut media) := by
  intro _ p code operands e
  simp [encodeCommand] at e

theorem fetchGrant (port : Port) : Statement (.fetchGrant port) := by
  intro _ p code operands e
  simp [encodeCommand] at e

theorem retireGrant (media : GrantMedia) : Statement (.retireGrant media) := by
  intro _ p code operands e
  simp [encodeCommand] at e

theorem configProgramGrant (media : List Programmed) : Statement (.configProgramGrant media) := by
  intro _ p code operands e
  simp [encodeCommand] at e

theorem eraseStart : Statement (.eraseStart) := by
  intro _ p code operands e
  simp [encodeCommand] at e

theorem eraseSliceElapsed : Statement (.eraseSliceElapsed) := by
  intro _ p code operands e
  simp [encodeCommand] at e

theorem eraseResume : Statement (.eraseResume) := by
  intro _ p code operands e
  simp [encodeCommand] at e

theorem eraseAttemptEnd (result : Erased) (media : List Programmed) : Statement (.eraseAttemptEnd result media) := by
  intro _ p code operands e
  simp [encodeCommand] at e

theorem leaseExpiry (port : Port) : Statement (.leaseExpiry port) := by
  intro _ p code operands e
  simp [encodeCommand] at e

theorem holdTimerExpiry : Statement (.holdTimerExpiry) := by
  intro _ p code operands e
  simp [encodeCommand] at e

theorem waitDeadline (cursor : Nat) : Statement (.waitDeadline cursor) := by
  intro _ p code operands e
  simp [encodeCommand] at e

theorem tickCounterAdvance : Statement (.tickCounterAdvance) := by
  intro _ p code operands e
  simp [encodeCommand] at e

end Sys2Proof.Laws.OperandCount
end

