-- ==== Sys2Proof/Laws/Settle.lean ====
section
/-! SUPPORT. The decisions at the end of a command come to an end: a grant without work is made to the reclaim unit at most
once and to the append writer at most once. -/

namespace Sys2Proof.Machine

set_option Elab.async false

/-- `t` has the writer and the reclaim unit of `s`. -/
structure Apart (s t : State) : Prop where
  writer : t.writer = s.writer
  reclaim : t.reclaim = s.reclaim

namespace Apart

theorem refl (s : State) : Apart s s := ⟨rfl, rfl⟩

theorem trans {s t u : State} (h : Apart s t) (h' : Apart t u) : Apart s u :=
  ⟨h'.1.trans h.1, h'.2.trans h.2⟩

theorem foldl {α : Type} (f : State → α → State) (h : ∀ s a, Apart s (f s a)) :
    ∀ (l : List α) (s : State), Apart s (l.foldl f s)
  | [], s => refl s
  | a :: l, s => (h s a).trans (foldl f h l (f s a))

end Apart

variable (s : State) (p : Port)

theorem modPort_apart (f : PortUnit → PortUnit) : Apart s (s.modPort p f) := by constructor <;> simp

theorem modLists_apart (f : CompletionUnit → CompletionUnit) : Apart s (s.modLists p f) := modPort_apart ..

theorem post_apart (c : Completion) : Apart s (s.post p c) := modLists_apart ..

theorem setBuffer_apart (i : BufferId) (b : Buffer) : Apart s (s.setBuffer p i b) := modPort_apart ..

theorem hand_apart (n : Notice) : Apart s (s.hand p n) := by
  unfold State.hand
  split
  · exact modPort_apart ..
  · exact .refl s

theorem handAll_apart (n : Notice) : Apart s (s.handAll n) :=
  ((hand_apart s .a n).trans (hand_apart _ .b n)).trans (hand_apart _ .c n)

theorem changeMode_apart (m : Mode) (cause : ModeCause) : Apart s (s.changeMode m cause) :=
  Apart.trans (t := { s with control := { s.control with mode := m } }) ⟨rfl, rfl⟩ (handAll_apart ..)

theorem demoteForSpace_apart : Apart s s.demoteForSpace := by
  unfold State.demoteForSpace
  split
  · exact .refl s
  · apply Apart.foldl
    intro s id
    split
    · exact .refl s
    · split
      · unfold State.demote
        split
        · exact .refl s
        · rename_i c _
          exact Apart.trans (t := s.setCursor id (some { c with mode := .lossy })) ⟨rfl, rfl⟩ (hand_apart ..)
      · exact .refl s

theorem endClaim_apart : Apart s s.endClaim := by
  have h : Apart s s.dropClaim.leaveService := by
    unfold State.leaveService
    split
    · exact ⟨rfl, rfl⟩
    · exact Apart.trans (t := s.dropClaim) ⟨rfl, rfl⟩ (changeMode_apart ..)
  refine (h.trans (u := s.dropClaim.leaveService.releaseFetches) ⟨rfl, rfl⟩).trans ?_
  show Apart _ (State.announceRelease _ _)
  unfold State.announceRelease
  split
  · exact .refl _
  · exact handAll_apart ..

theorem endOperation_apart (kind : RequestKind) (outcome : Code) : Apart s (s.endOperation kind outcome) := by
  have post : Apart s (s.postOperation kind outcome) := by
    unfold State.postOperation
    split
    · split
      · exact post_apart ..
      · exact .refl s
    · exact .refl s
  refine (post.trans (u := (s.postOperation kind outcome).dropOperation) ⟨rfl, rfl⟩).trans ?_
  show Apart _ (State.endClaimIfEnding _)
  unfold State.endClaimIfEnding
  split
  · exact endClaim_apart _
  · exact .refl _

theorem tellProducer_apart (kind : RecordKind) (written : Option Nat) : Apart s (s.tellProducer kind written) := by
  cases kind with
  | data => exact .refl s
  | mount =>
    have complete (s : State) : Apart s s.completeMount := by
      have ended : Apart s s.endMountPhase := ⟨rfl, rfl⟩
      unfold State.completeMount
      split
      · exact ended.trans (changeMode_apart ..)
      · split
        · exact ended.trans (changeMode_apart ..)
        · exact ended.trans (changeMode_apart ..)
    exact Apart.trans (t := s.findMountRecord (written.getD 0)) ⟨rfl, rfl⟩ (complete _)
  | config => exact endOperation_apart ..
  | format => exact endOperation_apart ..

theorem finishEntry_apart (e : Entry) (outcome : Code) (written : Option Nat) :
    Apart s (s.finishEntry e outcome written) := by
  unfold State.finishEntry
  split
  · exact tellProducer_apart ..
  · split
    · exact (setBuffer_apart ..).trans (post_apart ..)
    · exact setBuffer_apart ..

theorem drainEnds_apart : Apart s s.drainEnds := by
  have claim (s : State) : Apart s s.activateClaim := by
    have post : Apart s s.postClaim := by
      unfold State.postClaim
      split
      · split
        · exact post_apart ..
        · exact .refl s
      · exact .refl s
    exact post.trans ⟨rfl, rfl⟩
  unfold State.drainEnds
  split
  · split
    · exact (changeMode_apart ..).trans (claim _)
    · exact (changeMode_apart ..).trans (claim _)
    · exact .refl s
  · exact .refl s

/-! ### The examination of the head -/

/-- R52: an examined head keeps the reclaim unit apart, and a request of the append writer stands for a head that can
proceed. -/
structure Examined (s t : State) : Prop where
  reclaim : t.reclaim = s.reclaim
  proceeds : t.appendPending = true → t.headProceeds = true

/-- A writer that is not REQUESTING makes no request. -/
theorem examined_of_state {s t : State} (r : t.reclaim = s.reclaim) (w : t.writer.state ≠ .requesting) : Examined s t :=
  ⟨r, fun h => absurd h (by simpa [State.appendPending] using w)⟩

theorem becomeBlocked_apart : Apart (s.setWriter .waiting .blocked s.writer.holdTimer) s.becomeBlocked := by
  unfold State.becomeBlocked
  split
  · exact .refl _
  · exact handAll_apart ..

theorem leaveHead_apart (e : Entry) (outcome : Code) (written : Option Nat) :
    Apart s.dequeue (s.leaveHead e outcome written) := finishEntry_apart ..

theorem examine_examined : ∀ (fuel : Nat) (fresh : Bool) (s : State), s.writer.queue.length < fuel →
    Examined s (s.examine fuel fresh)
  | 0, _, _, h => absurd h (Nat.not_lt_zero _)
  | fuel + 1, fresh, s, h => by
    have b := becomeBlocked_apart s
    unfold State.examine
    split
    · have d := drainEnds_apart (s.setWriter .idle .none none)
      exact examined_of_state d.reclaim (by
        rw [State.writerIdle, d.writer]
        simp [State.setWriter])
    · rename_i e rest q
      have short {t : State} (w : t.writer.queue = s.writer.queue) (r : t.reclaim = s.reclaim) (outcome : Code) :
          Examined s (State.examine fuel true (t.leaveHead e outcome none)) := by
        have l := leaveHead_apart t e outcome none
        have x := examine_examined fuel true (t.leaveHead e outcome none) (by
          rw [l.writer]
          simp only [State.dequeue, w, q, List.tail_cons]
          simp only [q, List.length_cons] at h
          omega)
        exact ⟨x.reclaim.trans (l.reclaim.trans r), x.proceeds⟩
      split
      · exact short rfl rfl _
      · rename_i ex
        split
        · rename_i can
          refine ⟨rfl, fun _ => ?_⟩
          unfold State.headProceeds
          have q' : (s.setWriter .requesting .none none).writer.queue = e :: rest := q
          simp only [q', Bool.and_eq_true, Bool.not_eq_true']
          exact ⟨(by simpa using ex : s.exhausted = false), can⟩
        · split
          · exact examined_of_state rfl (by simp [State.setWriter])
          · split
            · refine examined_of_state ?_ ?_ <;> unfold State.holdHead <;> split <;>
                simp [State.setHoldTimer, b.reclaim, b.writer, State.setWriter]
            · refine short ?_ ?_ _ <;> simp [State.setHoldTimer, b.reclaim, b.writer, State.setWriter]
            · have d := demoteForSpace_apart s.becomeBlocked
              exact examined_of_state (d.reclaim.trans b.reclaim) (by simp [State.demoteAndWait, State.setWriter])
            · exact examined_of_state b.reclaim (by simp [State.setHoldTimer, b.writer, State.setWriter])

theorem examineHead_examined : Examined s s.examineHead := examine_examined _ _ _ (Nat.lt_succ_self _)

theorem redecidePressure_reclaim : s.redecidePressure.reclaim = s.reclaim := by
  unfold State.redecidePressure State.awaitSpace
  split
  · split
    · first | rfl | (split <;> rfl)
    · split
      · rfl
      · exact (examine_examined _ _ _ (Nat.lt_succ_self _)).reclaim
  · rfl

/-! ### The decisions -/

/-- R110: the next decision finds a requester that has work, or none. -/
def State.Quiet (s : State) : Prop := s.examineRequests.emptyGrant s.examineRequests.decideFree = none

theorem decisions_of_quiet (h : s.Quiet) (fuel : Nat) : s.decisions (fuel + 1) = s.decisions 1 := by
  have h : s.examineRequests.emptyGrant s.examineRequests.decideFree = none := h
  simp [State.decisions, h]

theorem examineRequests_keeps :
    s.examineRequests.writer = s.writer ∧ s.examineRequests.segs = s.segs ∧
      s.examineRequests.headProceeds = s.headProceeds := by
  unfold State.examineRequests State.examineReclaim State.suspendIfMet
  split <;> split <;> exact ⟨rfl, rfl, rfl⟩

/-- R95: a reclaim unit that did not request a retire, and does after the examination, has a target. -/
theorem retireFinds_of_request (h : s.reclaim ≠ .selecting) (r : s.examineRequests.retirePending = true) :
    s.examineRequests.retireFinds = true := by
  by_cases c : (s.reclaim = .idle && s.retireAllowed && (!s.segs.dirty.isEmpty || s.eligible)) = true
  · have found : s.retireFinds = true := by
      simp only [Bool.and_eq_true, Bool.or_eq_true] at c
      unfold State.retireFinds State.chooseTarget
      rw [c.1.2, if_pos rfl]
      split
      · rfl
      · rename_i d ring
        have e : s.eligible = true := by simpa [d] using c.2
        simp [e]
      · rename_i d ring
        have e : s.eligible = true := by simpa [d] using c.2
        simp [State.eligible, ring] at e
    unfold State.examineRequests State.examineReclaim State.suspendIfMet
    rw [if_pos c]
    split <;> exact found
  · unfold State.examineRequests State.examineReclaim State.suspendIfMet at r
    rw [if_neg c] at r
    split at r <;> exact absurd r (by simpa [State.retirePending] using h)

/-- R112, order 3: a retire is decided for a retire request. -/
theorem retirePending_of_decideFree (d : s.decideFree = .retire) : s.retirePending = true := by
  refine Decidable.byContradiction fun n => ?_
  unfold State.decideFree at d
  rw [if_neg n] at d
  repeat' split at d
  all_goals cases d

/-- R112, orders 4 and 6: an append is decided for an append request. -/
theorem appendPending_of_decideFree (d : s.decideFree = .append) : s.appendPending = true := by
  refine Decidable.byContradiction fun n => ?_
  unfold State.decideFree at d
  simp only [Bool.eq_false_iff.mpr n, Bool.false_and, Bool.false_eq_true, if_false] at d
  repeat' split at d
  all_goals cases d

/-- R110: with no retire request, and an append request only for a head that can proceed, no grant is without work. -/
theorem quiet_of (h : s.reclaim ≠ .selecting) (a : s.appendPending = true → s.headProceeds = true) : s.Quiet := by
  have k := examineRequests_keeps s
  unfold State.Quiet State.emptyGrant
  split
  · rename_i d
    have r := retirePending_of_decideFree _ d
    rw [if_pos (retireFinds_of_request s h r)]
  · rename_i d
    have p := appendPending_of_decideFree _ d
    rw [if_pos (k.2.2.trans (a (by simpa [State.appendPending, k.1] using p)))]
  · rfl

/-- R110: what a grant without work leaves: the reclaim unit IDLE, or the append writer with no request but for a head that
can proceed. -/
theorem emptyGrant_leaves {d : Decision} {u : State} (h : s.emptyGrant d = some u) :
    (d = .retire ∧ u.reclaim = .idle) ∨ (d = .append ∧ Examined s u) := by
  unfold State.emptyGrant at h
  split at h
  · split at h
    · cases h
    · cases h; exact .inl ⟨rfl, redecidePressure_reclaim _⟩
  · split at h
    · cases h
    · cases h
      have x := examineHead_examined s.appendGranted
      exact .inr ⟨rfl, x.reclaim, x.proceeds⟩
  · cases h

/-- R112: an append request is granted only without a retire request. -/
theorem not_retirePending_of_append (h : s.decideFree = .append) : s.reclaim ≠ .selecting := by
  intro r
  simp [State.decideFree, State.retirePending, r] at h

/-- An append grant without work leaves no other grant without work. -/
theorem quiet_of_append {u : State} (d : s.decideFree = .append) (x : Examined s u) : u.Quiet :=
  quiet_of u (by rw [x.reclaim]; exact not_retirePending_of_append s d) x.proceeds

/-- One decision, and those that follow a grant without work. -/
theorem decisions_succ (fuel : Nat) : s.decisions (fuel + 1) =
    if s.examineRequests.arrayFree = true then
      match s.examineRequests.emptyGrant s.examineRequests.decideFree with
      | some u => u.decisions fuel
      | none => s.examineRequests.makeGrant s.examineRequests.decideFree
    else s.examineRequests := rfl

/-- R110, R112: after a retire grant without work two more decisions are enough. -/
theorem decisions_of_idle (h : s.reclaim = .idle) (fuel : Nat) : s.decisions (fuel + 2) = s.decisions 2 := by
  rw [decisions_succ, decisions_succ s 1]
  cases e : s.examineRequests.emptyGrant s.examineRequests.decideFree with
  | none => rfl
  | some u =>
    rcases emptyGrant_leaves s.examineRequests e with ⟨d, _⟩ | ⟨d, x⟩
    · have r := retirePending_of_decideFree _ d
      rw [d] at e
      simp [State.emptyGrant, retireFinds_of_request s (by simp [h]) r] at e
    · simp only [decisions_of_quiet u (quiet_of_append _ d x) fuel]

/-- R110, R112: three decisions are enough: more come to the same. -/
theorem decisions_enough (fuel : Nat) : s.decisions (fuel + 3) = s.settle := by
  unfold State.settle
  rw [decisions_succ, decisions_succ s 2]
  cases e : s.examineRequests.emptyGrant s.examineRequests.decideFree with
  | none => rfl
  | some u =>
    rcases emptyGrant_leaves s.examineRequests e with ⟨_, i⟩ | ⟨d, x⟩
    · simp only [decisions_of_idle u i fuel]
    · have q := quiet_of_append _ d x
      simp only [decisions_of_quiet u q (fuel + 1), decisions_of_quiet u q 1]

/-- R110: a grant without work ends at once, and the next decision follows. -/
theorem settle_of_empty {u : State} (f : s.examineRequests.arrayFree = true)
    (e : s.examineRequests.emptyGrant s.examineRequests.decideFree = some u) : s.settle = u.settle := by
  rw [← decisions_enough s 1, decisions_succ, if_pos f, e]
  rfl

end Sys2Proof.Machine
end

