-- ==== Sys2Proof/Laws/Work.lean ====
section
/-! SUPPORT. What one program of an operation that holds the array can do: it keeps the array's form and leaves every other
byte alone, what is not whole is found as the rules say, and a COMMIT mark never verifies in a stopped write-out. The end of a retire
grant. -/

namespace Sys2Proof.Machine

set_option Elab.async false

variable (w : Work) (a : Nat) (data : List Byte) (found : Memory → Bool)

/-- A program is one program of the array, by some answer; the rest of the state stands. With no answer left a stopped
operation programs nothing. -/
theorem program_cases :
    (∃ answer, (w.program a data).1.s = { w.s with array := (w.s.array.program a data answer).1 } ∧
      (w.program a data).2 = (w.s.array.program a data answer).2) ∨
    (w.program a data = (w, false)) := by
  cases hm : w.media with
  | nil =>
    cases hc : w.cutting with
    | true => exact .inr (by simp [Work.program, hm, hc])
    | false => exact .inl ⟨.done, by simp [Work.program, hm, hc]⟩
  | cons answer rest => exact .inl ⟨if w.cutsHere then cutShort data answer else answer, by simp [Work.program, hm]⟩

theorem wf_work_program (h : w.s.array.wf = true) : (w.program a data).1.s.array.wf = true := by
  obtain ⟨answer, hs, -⟩ | hn := program_cases w a data
  · rw [hs]; exact wf_program a data answer h
  · rw [hn]; exact h

theorem read_work_program_outside {a' : Nat} (h : a' < a ∨ a + data.length ≤ a') :
    (w.program a data).1.s.array.read a' = w.s.array.read a' := by
  obtain ⟨answer, hs, -⟩ | hn := program_cases w a data
  · rw [hs]; exact read_program_outside _ a data answer h
  · rw [hn]

/-- R119: of a program cut short no bit is programmed that the program was not to program. -/
theorem cutShort_bits (bytes : List Byte) {k : Nat} (hk : k < data.length) :
    ∃ left, cutShort data (.left bytes) = .left left ∧ left.getD k erasedByte &&& data.getD k 0 = data.getD k 0 := by
  refine ⟨_, rfl, ?_⟩
  simp only [List.getD_eq_getElem?_getD, List.getElem?_map, List.getElem?_range hk, Option.map_some, Option.getD_some]
  ext i hi
  simp only [BitVec.getElem_and, BitVec.getElem_or]
  cases (data[k]?.getD 0#8)[i] <;> simp

/-- A program of which the rules say what is found: it verified, or that is found, or nothing is programmed. -/
theorem programHeld_cases :
    (w.programHeld a data found).2 = true ∨ found (w.programHeld a data found).1.s.array = true ∨
      (w.programHeld a data found).1.s.array = w.s.array := by
  unfold Work.programHeld
  split
  · exact .inl rfl
  · split
    · exact .inr (.inl ‹_›)
    · exact .inr (.inr rfl)

theorem wf_programHeld (h : w.s.array.wf = true) : (w.programHeld a data found).1.s.array.wf = true := by
  have hp := wf_work_program w a data h
  unfold Work.programHeld
  split <;> rename_i heq
  · simpa [heq] using hp
  · split
    · simpa [heq] using hp
    · exact h

/-- R37, R61: a SEALED program that does not verify leaves no valid group, or the array as it was. -/
theorem programSealed_cases (i last : Nat) :
    (w.programSealed i last).2 = true ∨ readSealed (w.programSealed i last).1.s.array i ≠ .valid ∨
      (w.programSealed i last).1.s.array = w.s.array := by
  simpa [Work.programSealed] using
    programHeld_cases w (address i sealedOffset) (sealedGroup last) fun m => readSealed m i ≠ .valid

/-- R136: the OPENED program of a stopped write-out of the FORMAT record leaves no valid group, or the array as it was. -/
theorem programOpened_format (i generation first mount : Nat) (h : w.stopsFormatRecord = true) :
    (w.programOpened i generation first mount).2 = false ∧
      (readOpened (w.programOpened i generation first mount).1.s.array i ≠ .valid ∨
        (w.programOpened i generation first mount).1.s.array = w.s.array) := by
  have held := programHeld_cases w (address i openedOffset) (openedGroup generation first mount) fun m =>
    !(w.cutsHere || true) || readOpened m i ≠ .valid
  unfold Work.programOpened
  simp only [h]
  split <;> rename_i after heq
  · simp
  · rw [heq] at held
    simpa using held

theorem wf_programOpened (i generation first mount : Nat) (h : w.s.array.wf = true) :
    (w.programOpened i generation first mount).1.s.array.wf = true := by
  have held := wf_programHeld w (address i openedOffset) (openedGroup generation first mount)
    (fun m => !(w.cutsHere || w.stopsFormatRecord) || readOpened m i ≠ .valid) h
  unfold Work.programOpened
  dsimp only
  split <;> rename_i after heq <;> rw [heq] at held
  · split
    · exact h
    · exact held
  · exact held

/-- R61: in a write-out that a reset stops no COMMIT mark is left. -/
theorem programCommit_cut (i line : Nat) (h : w.cutting = true) : (w.programCommit i line).2 = false := by
  unfold Work.programCommit
  split <;> rename_i after verified heq
  cases verified <;> simp [h]

theorem wf_programCommit (i line : Nat) (h : w.s.array.wf = true) : (w.programCommit i line).1.s.array.wf = true := by
  have hp := wf_work_program w (lineAddress i line + 24) (wordBytes commitPattern) h
  unfold Work.programCommit
  split <;> rename_i after verified heq
  split
  · exact h
  · simpa [heq] using hp

/-- R110, R113: a retire grant that has a target holds on, or ends with its erase request at the tail of the list; one
without a target ends. -/
theorem retireEnd_cases (holds : Bool) (s : State) :
    (∃ i source attempt, s.reclaim = .erasing i source attempt ∧
      s.retireEnd holds =
        if holds = true then s.hold .retiring
        else (s.requestErase { requester := .reclaim, segment := i, attempt := attempt }).settle) ∨
    ((∀ i source attempt, s.reclaim ≠ .erasing i source attempt) ∧ s.retireEnd holds = s.settle) := by
  cases h : s.reclaim with
  | idle => exact .inr ⟨nofun, by simp [State.retireEnd, State.reclaimErasing, State.requestTarget, h]⟩
  | selecting => exact .inr ⟨nofun, by simp [State.retireEnd, State.reclaimErasing, State.requestTarget, h]⟩
  | erasing i source attempt =>
    exact .inl ⟨i, source, attempt, rfl, by simp [State.retireEnd, State.reclaimErasing, State.requestTarget, h]⟩

end Sys2Proof.Machine
end

