-- ==== Sys2Proof/Tests/Slice0.lean ====
section
/-! SUPPORT. Tests: ill-formed terms refused, words and frames written out from the manual, one step of each command on a
small state, and for each statement with hypotheses a concrete state and operands that meet them. -/

namespace Sys2Proof.Tests

open Sys2Proof.Machine

set_option Elab.async false

/-! ### Ill-formed terms -/

theorem test_wf_load_without_bytes : Instr.wf (.load .a 0 0 []) = false := by decide
theorem test_wf_load_of_65_bytes : Instr.wf (.load .a 0 0 (List.replicate 65 0)) = false := by decide
theorem test_wf_load_of_64_bytes : Instr.wf (.load .a 0 0 (List.replicate 64 0)) = true := by decide
theorem test_wf_erase_beyond_its_segment : Instr.wf (.eraseAttemptEnd (.left [(65536, 0)]) []) = false := by
  decide +kernel
theorem test_wf_cut_beyond_its_segment : Instr.wf (.resetAsserted (.idle (some (.left [(65536, 0)])))) = false := by
  decide +kernel
theorem test_wf_append_cut_beyond_its_segment :
    Instr.wf (.resetAsserted (.append [] (some (.left [(65536, 0)])))) = false := by decide +kernel
theorem test_wf_config_cut_beyond_its_segment :
    Instr.wf (.resetAsserted (.config [] (some (.left [(65536, 0)])))) = false := by decide +kernel
theorem test_wf_erase_end_cut_beyond_its_segment :
    Instr.wf (.resetAsserted (.eraseEnd (.left [(65536, 0)]) [])) = false := by decide +kernel
theorem test_wf_deadline_of_no_cursor : Instr.wf (.waitDeadline 12) = false := by decide
theorem test_wf_deadline_of_the_last_cursor : Instr.wf (.waitDeadline 11) = true := by decide

/-! ### The three checks: the well-known check values over the nine characters 1 to 9 -/

theorem test_crc8 : crc8 [0x31, 0x32, 0x33, 0x34, 0x35, 0x36, 0x37, 0x38, 0x39] = 0xF4 := by decide +kernel
theorem test_crc16 : crc16 [0x31, 0x32, 0x33, 0x34, 0x35, 0x36, 0x37, 0x38, 0x39] = 0x29B1 := by decide +kernel
theorem test_crc32 : crc32 [0x31, 0x32, 0x33, 0x34, 0x35, 0x36, 0x37, 0x38, 0x39] = 0xCBF43926 := by decide +kernel
/-- R6: an empty payload has the payload CRC 0. -/
theorem test_crc32_of_nothing : crc32 [] = 0 := by decide +kernel

/-! ### Frames, written out from R177 and R192; the check bytes are worked out outside the model -/

theorem test_frame_read_status : decodeFrame .a [0x01, 0x00, 0x15] = .readStatus .a := by decide +kernel
theorem test_frame_attach : decodeFrame .b [0x02, 0x02, 0x0A, 0x03, 0x71] = .attach .b 10 3 := by decide +kernel
theorem test_frame_query_segment : decodeFrame .c [0x06, 0x01, 0x3F, 0xD5] = .querySegment .c 63 := by decide +kernel
theorem test_frame_begin_record :
    decodeFrame .a [0x10, 0x04, 0x01, 0x0F, 0x04, 0x00, 0x14] = .beginRecord .a 1 15 1024 := by decide +kernel
theorem test_frame_load :
    decodeFrame .a [0x11, 0x05, 0x00, 0x00, 0x02, 0xAA, 0xBB, 0xE5] = .load .a 0 2 [0xAA, 0xBB] := by decide +kernel
theorem test_frame_commit : decodeFrame .a [0x13, 0x02, 0x01, 0x07, 0x8B] = .commit .a 1 7 := by decide +kernel
theorem test_frame_open_cursor :
    decodeFrame .a [0x20, 0x04, 0x80, 0x01, 0x01, 0x00, 0xFB] = .openCursor .a 0x8001 1 0 := by decide +kernel
theorem test_frame_seek :
    decodeFrame .a [0x22, 0x07, 0x0B, 0x80, 0x00, 0x00, 0x00, 0x00, 0x01, 0xE1] = .seek .a 11 0x800000000001 := by
  decide +kernel
theorem test_frame_read_next :
    decodeFrame .a [0x27, 0x04, 0x03, 0x09, 0x01, 0x02, 0x70] = .readNext .a 3 9 258 := by decide +kernel
theorem test_frame_take_completion : decodeFrame .a [0x30, 0x01, 0x00, 0xF4] = .takeCompletion .a 0 := by decide +kernel
theorem test_frame_format : decodeFrame .a [0x42, 0x01, 0x06, 0x57] = .format .a 6 := by decide +kernel
theorem test_frame_edit_stream :
    decodeFrame .a [0x51, 0x03, 0x0F, 0x05, 0x01, 0xA3] = .editStream .a 15 5 1 := by decide +kernel
theorem test_frame_lock_config : decodeFrame .a [0x55, 0x00, 0x4D] = .lockConfig .a := by decide +kernel
/-- Bytes after the check byte are ignored. -/
theorem test_frame_with_more_bytes : decodeFrame .a [0x55, 0x00, 0x4D, 0xFF, 0x01] = .lockConfig .a := by decide +kernel
theorem test_frame_bad_check : decodeFrame .a [0x55, 0x00, 0x4C] = .frameError .a .badCheck := by decide +kernel
theorem test_frame_bad_code : decodeFrame .a [0x60, 0x00, 0xF5] = .frameError .a .badCode := by decide +kernel
theorem test_frame_bad_count : decodeFrame .a [0x03, 0x01, 0x00, 0xA8] = .frameError .a .badCount := by decide +kernel
theorem test_frame_cut_short : decodeFrame .a [0x55, 0x00] = .frameError .a .cutShort := by decide +kernel

/-! ### Small states -/

/-- The state a command leads to. -/
def after (c : Instr) (s : State) : State :=
  match exec c s with
  | .next t => t
  | .fault _ => s
  | .refused _ => s

/-- A map entry with a known erase count. -/
def entryOf (state : SegState) (first last : Nat) (fill : Option Nat) : SegEntry :=
  { state := state, generation := 1, first := first, last := last, fill := fill, eraseCount := some 0, faults := 0
    bad := none }

/-- RUN after mount 1: ports A and B attached with a lease of 1 s, port C not; segment 2 SEALED with records 1 to 5,
segment 3 OPEN with 6 and 7 and 3 lines filled, segments 4 to 6 FREE, the others BAD; no cursor and an empty queue. -/
def base : State :=
  let attached : PortUnit :=
    { PortUnit.reset with
      attached := true, lease := 10, leaseTimer := some 1000, maskCompletions := true, maskNotices := true }
  { State.reset with
    seq := { State.reset.seq with grant := .none }
    portA := attached
    portB := attached
    writer := { State.reset.writer with nextSequence := 8, newestDurable := 7 }
    segs :=
      { map :=
          [entryOf .sealed 1 5 (some 4090), entryOf .open 6 7 (some 3), entryOf .free 0 0 none,
            entryOf .free 0 0 none, entryOf .free 0 0 none] ++
            List.replicate 57 { entryOf .bad 0 0 none with bad := some .worn }
        ring := [2, 3], pool := [4, 5, 6], dirty := [], generation := 3, usable := 30 }
    control := { State.reset.control with mode := .run }
    mount := { State.reset.mount with phase := .ended, number := 1 } }

/-- A port with one of its staging buffers replaced. -/
def withBuffer (s : State) (b : Buffer) : State := s.modPort .a fun u => { u with buffer0 := b }

/-- A complete record of three bytes in stream 1. -/
def complete : Buffer := { state := .loading, stream := 1, length := 3, bytes := [1, 2, 3], tag := 0 }

/-- RUN with a complete record in buffer 0 of port A. -/
def loaded : State := withBuffer base complete

/-- A cursor of port A for stream 1. -/
def cursorOf (mode : CursorMode) (state : CursorState) : Cursor :=
  { owner := .a, filter := 0x0002, mode := mode, delivered := 6, acked := 5, hint := none, state := state, overrun := 0 }

/-- RUN with a cursor of port A in slot 11. -/
def withCursor (s : State) (c : Cursor) : State := s.setCursor 11 (some c)

/-- RUN after an accepted COMMIT: the append writer holds the array for the write-out of the record. -/
def queued : State := after (.commit .a 0 9) loaded

/-- SERVICE, with a claim of port A. -/
def claimed : State := after (.claimService .a 5) base

/-! ### One step of each command -/

theorem test_attach_starts_the_timer :
    ((after (.attach .c 3 1) base).port .c).leaseTimer = some 300 ∧ (after (.attach .c 3 1) base).port .a = base.port .a := by
  decide +kernel
/-- R193: between frames the data output is at high impedance. -/
theorem test_data_out_after_a_frame : (after (.readClock .a) base).dataOut .a = none := by decide +kernel
theorem test_detach_keeps_the_mask :
    ((after (.detach .a) base).port .a).maskNotices = true ∧ ((after (.detach .a) base).port .a).attached = false := by
  decide +kernel
theorem test_read_clock_bytes :
    ((after (.readClock .a) { base with tick := 0x01020304 }).port .a).response =
      some { code := .ok, result := [1, 2, 3, 4, 0, 1] } := by decide +kernel
/-- The status byte of an attached port in RUN: positions 0 and 3. -/
theorem test_status_byte : base.statusByte .a = 0x09 := by decide +kernel
theorem test_query_journal_boundary :
    (((after (.queryJournal .a) base).port .a).response.map fun r => r.result.take 12) =
      some [0, 0, 0, 0, 0, 0, 0, 0, 0, 0, 0, 7] := by decide +kernel
theorem test_query_segment_two :
    ((after (.querySegment .a 2) base).port .a).response =
      some { code := .ok, result := [2, 2, 0, 0, 0, 1, 0, 0, 0, 0, 0, 1, 0, 0, 0, 0, 0, 5, 0x0F, 0xFA, 0, 0, 0, 0, 0] } := by
  decide +kernel
theorem test_begin_record_stream_zero :
    ((after (.beginRecord .a 0 0 4) base).port .a).response = some { code := .badStream, result := [] } := by
  decide +kernel
theorem test_load_leaves_a_hole :
    ((after (.load .a 0 4 [9]) loaded).port .a).buffer0.state = .faulted := by decide +kernel
theorem test_abandon_a_queued_record :
    ((after (.abandon .a 0) queued).port .a).response = some { code := .bufferBusy, result := [] } := by decide +kernel
theorem test_commit_is_granted_at_once : queued.seq.grant = .append ∧ queued.writer.state = .writing := by decide +kernel
theorem test_open_cursor_newest :
    (after (.openCursor .a 2 1 0) base).cursor 0 =
      some { owner := .a, filter := 2, mode := .retaining, delivered := 7, acked := 7, hint := none, state := .idle
             overrun := 0 } := by decide +kernel
theorem test_close_cursor_empties_its_slot :
    (after (.closeCursor .a 11) (withCursor base (cursorOf .lossy .idle))).cursor 11 = none := by decide +kernel
theorem test_seek_before_the_boundary :
    ((after (.seek .a 11 1) (withCursor base (cursorOf .lossy .idle))).cursor 11).map (·.delivered) = some 0 := by
  decide +kernel
theorem test_ack_beyond_delivered :
    ((after (.ack .a 11 7) (withCursor base (cursorOf .lossy .idle))).port .a).response =
      some { code := .badSequence, result := [] } := by decide +kernel
theorem test_rewind_to_acknowledged :
    ((after (.rewind .a 11) (withCursor base (cursorOf .lossy .idle))).cursor 11).map (·.delivered) = some 5 := by
  decide +kernel
theorem test_set_cursor_mode :
    ((after (.setCursorMode .a 11 0) (withCursor base (cursorOf .lossy .idle))).cursor 11).map (·.mode) =
      some .retaining := by decide +kernel
theorem test_query_cursor_bytes :
    ((after (.queryCursor .a 11) (withCursor base (cursorOf .lossy .idle))).port .a).response =
      some { code := .ok
             result := [11, 0, 2, 1, 0, 0, 0, 0, 0, 6, 0, 0, 0, 0, 0, 5, 0, 0, 0, 0, 0, 0] } := by decide +kernel
theorem test_read_next_joins_the_list :
    (after (.readNext .a 11 9 0) (withCursor base (cursorOf .lossy .idle))).cursors.fetchList =
      [{ id := 11, owner := .a, held := false }] := by decide +kernel
theorem test_read_window_of_nothing :
    ((after (.readWindow .a 0 1) base).port .a).response = some { code := .badOffset, result := [] } := by decide +kernel
theorem test_take_completion_of_nothing :
    ((after (.takeCompletion .a 0) base).port .a).response = some { code := .empty, result := [] } := by decide +kernel
theorem test_take_notice_of_nothing :
    ((after (.takeNotice .a 1) base).port .a).response = some { code := .empty, result := [0] } := by decide +kernel
theorem test_claim_service : claimed.control.mode = .service ∧ claimed.store.pendingCfg = some .defaults := by
  decide +kernel
theorem test_release_service :
    (after (.releaseService .a) claimed).control.mode = .run ∧ (after (.releaseService .a) claimed).store.pendingCfg = none := by
  decide +kernel
theorem test_format_asks_for_the_seal : (after (.format .a 6) claimed).control.format = .seal := by decide +kernel
theorem test_read_config_without_pending :
    ((after (.readConfig .a 1) base).port .a).response = some { code := .wrongMode, result := [] } := by decide +kernel
theorem test_edit_stream :
    ((after (.editStream .a 15 5 1) claimed).store.pendingCfg.map fun r => r.stream 15) =
      some { writers := { a := true, b := false, c := true }, closed := true } := by decide +kernel
theorem test_edit_rights_empty :
    ((after (.editRights .a 0) claimed).port .a).response = some { code := .badValue, result := [] } := by decide +kernel
theorem test_edit_policy :
    ((after (.editPolicy .a 2 255 8 16) claimed).store.pendingCfg.map fun r => (r.holdLimit, r.freeTarget, r.eraseSlice)) =
      some (255, 8, 16) := by decide +kernel
theorem test_commit_config_erases_copy_zero :
    (after (.commitConfig .a 6) claimed).seq.erases = [{ requester := .store, segment := 0, attempt := 1 }] := by
  decide +kernel
theorem test_lock_config : (after (.lockConfig .a) base).store.lock = true := by decide +kernel
theorem test_frame_error_is_answered :
    ((after (.frameError .a .badCode) base).port .a).response = some { code := .frameError, result := [] } := by
  decide +kernel
theorem test_reset_releases_attn :
    (after (.resetAsserted (.idle none)) (base.handAll (.pressure 0))).attn .a = false ∧
      (base.handAll (.pressure 0)).attn .a = true := by decide +kernel
theorem test_reset_released_detaches :
    ((after .resetReleased (after (.resetAsserted (.idle none)) base)).port .a).attached = false := by decide +kernel
/-- R154, R95: every segment of a blank part is DIRTY, and a retire is granted at once. -/
theorem test_mount_of_a_blank_part :
    (after (.mountScan []) .reset).mount.findings.dirty = 62 ∧
      (after (.mountScan []) .reset).seq.grant = .retire := by decide +kernel
theorem test_append_write_out_completes :
    ((after (.appendWriteOut []) queued).port .a).lists.queue =
      [{ kind := .commit, tag := 9, outcome := .ok, sequence := 8, stream := 0, length := 0 }] := by decide +kernel
theorem test_fetch_grant_ends :
    ((after (.fetchGrant .a)
            (after (.readNext .a 11 9 0) (withCursor base { cursorOf .lossy .idle with delivered := 7 }))).port
          .a).lists.queue =
      [{ kind := .readNext, tag := 9, outcome := .endOfJournal, sequence := 0, stream := 0, length := 0 }] := by
  decide +kernel
theorem test_retire_grant_without_a_request : after (.retireGrant ⟨[], false⟩) base = base := by decide +kernel
/-- R96: the first segment of the dirty list is retired. -/
theorem test_retire_grant_of_a_blank_part :
    (after (.retireGrant ⟨[], false⟩) (after (.mountScan []) .reset)).seq.erases =
      [{ requester := .reclaim, segment := 2, attempt := 1 }] := by decide +kernel
theorem test_config_program_grant_seals :
    ((after (.configProgramGrant []) (after (.format .a 6) claimed)).seg 3).state = .sealed := by decide +kernel
theorem test_erase_start :
    (after .eraseStart (after (.commitConfig .a 6) claimed)).seq.slice = .running 4 := by decide +kernel
theorem test_erase_slice_elapsed :
    (after .eraseSliceElapsed { claimed with
      seq :=
        { claimed.seq with
          erases := [{ requester := .store, segment := 0, attempt := 1 }], head := .active, slice := .running 0 } }).seq.slice =
      .elapsed := by decide +kernel
theorem test_erase_resume_of_nothing : after .eraseResume base = base := by decide +kernel
theorem test_erase_attempt_end_of_a_copy :
    (after (.eraseAttemptEnd .clean []) (after .eraseStart (after (.commitConfig .a 6) claimed))).store.operation =
      .copyWrite .commitConfig .program := by decide +kernel
theorem test_lease_expiry :
    ((after (.leaseExpiry .a) (base.modPort .a fun u => { u with leaseTimer := some 0 })).port .a).detachedByLease = true := by
  decide +kernel
/-- R182: a lease timer with time left does not expire. -/
theorem test_lease_with_time_left : after (.leaseExpiry .a) base = base := by decide +kernel
theorem test_hold_timer_that_stands : after .holdTimerExpiry base = base := by decide +kernel
theorem test_wait_deadline :
    ((after (.waitDeadline 11)
            (withCursor base (cursorOf .lossy (.waiting { tag := 9, wait := 5, deadline := some 0 })))).cursor 11).map
        (·.state) =
      some .idle := by decide +kernel
theorem test_tick_wraps : (after .tickCounterAdvance { base with tick := 0xFFFFFFFF }).tick = 0 := by decide +kernel

/-! ### The queue -/

theorem test_step_takes_the_front :
    (match step { base with pending := [.tickCounterAdvance, .eraseStart] } with
      | .next t => t.pending
      | _ => []) =
      [.eraseStart] := by decide +kernel

/-! ### States that meet the hypotheses of the statements -/

theorem witness_StepRunsTheFrontCommand :
    ({ base with pending := [.eraseStart] } : State).pending = .eraseStart :: [] ∧ base.pending = [] := by
  decide +kernel

theorem witness_ResetHoldsAndClearsThePart :
    base.inReset = false ∧ base.seq.erases = [] ∧ ({ base with inReset := true } : State).inReset = true ∧
      Instr.detach .a ≠ .resetReleased := by decide +kernel

theorem witness_ProgramsClearBitsAndErasesReturnThem :
    exec (.appendWriteOut []) queued = .next (after (.appendWriteOut []) queued) ∧
      (∀ r m, Instr.appendWriteOut [] ≠ .eraseAttemptEnd r m) ∧ (∀ cut, Instr.appendWriteOut [] ≠ .resetAsserted cut) ∧
      queued.ArrayOk :=
  ⟨rfl, by simp, by simp, rfl⟩

theorem witness_ProgramsClearBitsAndErasesReturnThem_no_program :
    exec .tickCounterAdvance base = .next (after .tickCounterAdvance base) ∧
      (∀ m, Instr.tickCounterAdvance ≠ .mountScan m) ∧ (∀ m, Instr.tickCounterAdvance ≠ .appendWriteOut m) ∧
      (∀ m, Instr.tickCounterAdvance ≠ .retireGrant m) ∧ ∀ m, Instr.tickCounterAdvance ≠ .configProgramGrant m :=
  ⟨rfl, by simp, by simp, by simp, by simp⟩

/-- An ACTIVE erase of segment 2 for the reclaim unit, attempt `n`. -/
def erasing (n : Nat) : State :=
  { base with
    segs := { base.segs with ring := [3], map := base.segs.map.set 0 (entryOf .erasing 0 0 none) }
    reclaim := .erasing 2 .ring n
    seq :=
      { base.seq with
        erases := [{ requester := .reclaim, segment := 2, attempt := n }], head := .active, slice := .running 4 } }

theorem witness_ProgramsClearBitsAndErasesReturnThem_erases :
    (erasing 1).seq.erases = { requester := .reclaim, segment := 2, attempt := 1 } :: [] ∧ base.seq.erases = [] ∧
      ({ erasing 1 with seq := { (erasing 1).seq with head := .suspended } } : State).seq.head ≠ .active := by
  decide +kernel

/-- RUN with a requester that holds the array. -/
def granted (g : Grant) : State := { base with seq := { base.seq with grant := g } }

/-- ResetsStopTheArray: the write-out, an erase and every other operation are stopped. -/
theorem witness_ResetsStopTheArray :
    queued.ArrayOk ∧ queued.inReset = false ∧
      exec (.resetAsserted (.append [] none)) queued = .next (after (.resetAsserted (.append [] none)) queued) :=
  ⟨rfl, rfl, rfl⟩

/-- An erase that has begun, cut, and a suspended one. -/
theorem witness_ResetsStopTheArray_erases (head : HeadState) (h : head ≠ .pending) :
    let s : State := { erasing 1 with seq := { (erasing 1).seq with head := head } }
    s.ArrayOk ∧ s.inReset = false ∧ s.seq.erases = { requester := .reclaim, segment := 2, attempt := 1 } :: [] ∧
      s.seq.head ≠ .pending ∧
      (∀ result media, Cut.idle (some (.left [(9, 0)])) ≠ .eraseEnd result media) ∧
      exec (.resetAsserted (.idle (some (.left [(9, 0)])))) s =
        .next (after (.resetAsserted (.idle (some (.left [(9, 0)])))) s) :=
  ⟨rfl, rfl, rfl, h, nofun, rfl⟩

/-- The three ways in which a reset leaves a segment whose erase was carried to its end. -/
theorem witness_ResetsStopTheArray_erase_end :
    classify (after (.resetAsserted (.eraseEnd .clean [.done])) (erasing 2)).array 2 = .free ∧
      classify (after (.resetAsserted (.eraseEnd .clean [])) (erasing 2)).array 2 = .dirty ∧
      classify (after (.resetAsserted (.eraseEnd (.left [(9, 0)]) [.done])) (erasing 2)).array 2 = .bad .eraseFail := by
  decide +kernel

/-- A held retire grant without anything to retire. -/
theorem witness_ResetsStopTheArray_nothing : (granted .retire).seq.grant = .retire ∧ ¬ (granted .retire).WantsRetire :=
  ⟨rfl, fun w => absurd w.2.2.1 (by decide +kernel)⟩

theorem witness_ResetsStopTheArray_grants (g : Grant) :
    (granted g).ArrayOk ∧ (granted g).inReset = false ∧ (granted g).seq.grant = g ∧ (granted g).segs.dirty = [] ∧
      (granted g).segs.ring.head? = some 2 ∧
      exec (.resetAsserted (.idle none)) (granted g) = .next (after (.resetAsserted (.idle none)) (granted g)) :=
  ⟨rfl, rfl, rfl, rfl, rfl, rfl⟩

theorem witness_SequenceRisesByOneInWriteOuts :
    exec (.appendWriteOut []) queued = .next (after (.appendWriteOut []) queued) ∧
      (∀ m, Instr.appendWriteOut [] ≠ .mountScan m) ∧ Instr.appendWriteOut [] ≠ .resetReleased ∧
      (after (.appendWriteOut []) queued).writer.nextSequence = queued.writer.nextSequence + 1 :=
  ⟨rfl, by simp, by simp, by decide +kernel⟩

/-! A state that meets every invariant, with a command in front: a write-out in its grant, and a cursor. -/

/-- The write-out of a record holds the array; the command that ends it is in front. -/
def ready : State := { withCursor queued (cursorOf .lossy .idle) with pending := [.appendWriteOut []] }

theorem ready_table : ∀ slot ∈ ready.cursors.table, slot = none ∨ slot = some (cursorOf .lossy .idle) := by decide +kernel

theorem ready_erases : ready.seq.erases = [] ∧ ready.seq.grant = .append ∧ ready.control.format = .none := by
  decide +kernel

theorem journal_all {P : Nat → Prop} (h : ∀ i < 64, 2 ≤ i → P i) : ∀ i, 2 ≤ i → i ≤ 63 → P i :=
  fun i low high => h i (by omega) low

theorem witness_StepKeeps : step ready = .next (after (.appendWriteOut []) (ready.withPending [])) := rfl

theorem witness_StepKeepsTheArrayCanonical : ready.ArrayOk := rfl

theorem witness_StepKeepsTheListsInOrder : ready.ListsOk ∧ ready.DetachedOk := by
  refine ⟨fun p => ?_, fun p => ?_⟩ <;> cases p <;> (first | unfold CompletionUnit.Ok | unfold PortUnit.DetachedOk) <;>
    decide +kernel

theorem witness_StepKeepsCursorsInOrder : ready.CursorsOk ∧ ready.FetchCountOk := by
  refine ⟨⟨rfl, fun slot h c e => ?_⟩, by unfold State.FetchCountOk; decide +kernel⟩
  obtain h | h := ready_table slot h <;> cases h.symm.trans e
  exact ⟨by decide +kernel, by decide +kernel⟩

theorem witness_StepKeepsTheClaimConsistent : claimed.ClaimOk := by
  unfold State.ClaimOk
  decide +kernel

theorem witness_ScanOk : ready.ScanOk := by constructor <;> decide +kernel

theorem witness_StepKeepsTheCountersInRange : ready.ScanOk ∧ ready.CountersOk :=
  ⟨witness_ScanOk, by constructor <;> decide +kernel⟩

theorem witness_StepKeepsConfigurationsInRange : claimed.ScanOk ∧ claimed.CountersOk ∧ claimed.ConfigsOk := by
  refine ⟨by constructor <;> decide +kernel, by constructor <;> decide +kernel, ?_⟩
  refine ⟨by unfold ConfigRecord.Ok; decide +kernel, fun r h => ?_, fun r h => ?_⟩
  · have : r = .defaults := by
      have e : claimed.store.pendingCfg = some .defaults := by decide +kernel
      simpa using (h.symm.trans e)
    subst this
    unfold ConfigRecord.Ok
    decide +kernel
  · have e : claimed.store.candidate = none := by decide +kernel
    simp [h] at e

theorem ready_format : ready.FormatOk := by
  obtain ⟨he, hg, hf⟩ := ready_erases
  have hs : ready.store.operation = .none := by decide +kernel
  have hq : (∀ e ∈ ready.writer.queue, e.kind = .data) ∧ ready.writer.queue.length = 1 := by decide +kernel
  constructor
  case single => decide +kernel
  case idle => decide +kernel
  case config => exact fun e h k => by simp [hq.1 e h] at k
  case record => exact fun e h k => by simp [hq.1 e h] at k
  all_goals simp [hf, hs]

theorem ready_erasesOk : ready.ErasesOk := by
  obtain ⟨he, hg, hf⟩ := ready_erases
  constructor
  case alone => decide +kernel
  all_goals simp [he, hg, hf]

theorem ready_segments : ready.SegmentsOk := by
  constructor
  case free => exact journal_all (by decide +kernel)
  case dirty => exact journal_all (by decide +kernel)
  case ring => exact journal_all (by decide +kernel)
  case wear =>
    unfold SegmentManager.InWearOrder
    decide +kernel
  all_goals decide +kernel

theorem ready_claim : ready.ClaimOk ∧ ready.ModeOk := by
  refine ⟨by unfold State.ClaimOk; decide +kernel, ?_⟩
  have q : ∀ e ∈ ready.writer.queue, e.kind = .data := by decide +kernel
  constructor
  case record => exact fun e h k => by simp [q e h] at k
  all_goals decide +kernel

theorem witness_StepKeepsTheClaimConsistent_mode : ready.ClaimOk ∧ ready.ScanOk ∧ ready.FormatOk ∧ ready.ModeOk :=
  ⟨ready_claim.1, witness_ScanOk, ready_format, ready_claim.2⟩

theorem witness_StepKeepsTheSegmentsInOrder :
    ready.ClaimOk ∧ ready.ModeOk ∧ ready.ScanOk ∧ ready.CursorsOk ∧ ready.FormatOk ∧ ready.ErasesOk ∧ ready.SegmentsOk :=
  ⟨ready_claim.1, ready_claim.2, witness_ScanOk, witness_StepKeepsCursorsInOrder.1, ready_format, ready_erasesOk,
    ready_segments⟩

/-- An erase that is ACTIVE, with its target in no collection. -/
theorem witness_StepKeepsTheSegmentsInOrder_erasing : (erasing 1).ErasesOk ∧ (erasing 1).SegmentsOk := by
  have he : (erasing 1).seq.erases = [{ requester := .reclaim, segment := 2, attempt := 1 }] := rfl
  constructor <;> constructor
  case left.journal => rw [he]; decide +kernel
  case left.reclaim => simp [erasing]
  case left.copies => simp [he]
  case left.format => simp [he]
  case left.selecting => simp [erasing, base]
  case left.retiring => simp [erasing, base]
  case right.wear =>
    unfold SegmentManager.InWearOrder
    decide +kernel
  case left.taken => simp [erasing, base, State.reset, State.afterReset]
  case right.free => exact journal_all (by decide +kernel)
  case right.dirty => exact journal_all (by decide +kernel)
  case right.ring => exact journal_all (by decide +kernel)
  all_goals decide +kernel

theorem ready_records : ready.RecordsOk := fun _ _ _ h => nomatch (show Found.blank = _ from h)

theorem witness_StepKeepsPositionsInTheJournal : ready.RecordsOk ∧ ready.PositionsOk := by
  refine ⟨ready_records, fun slot h c e => ?_⟩
  obtain h | h := ready_table slot h <;> cases h.symm.trans e
  refine ⟨?_, ?_, ?_⟩ <;> decide +kernel

theorem witness_StepKeepsRequestsGranted : ready.RequestsOk := by
  refine ⟨fun _ h => absurd h.2.2.1 (by decide +kernel), by decide +kernel⟩

/-! ### Frames and ports -/

theorem witness_FramesDecodeToTheirCommands :
    Instr.wf (.load .a 1 0xFFFF (List.replicate 64 0xFF)) = true ∧
      encodeFrame (.load .a 1 0xFFFF (List.replicate 64 0xFF)) =
        some (.a, frameOf 0x11 (1 :: 0xFF :: 0xFF :: List.replicate 64 0xFF)) := by decide +kernel

/-- A configuration record with every field at the end of its range. -/
def widest : ConfigRecord :=
  { ConfigRecord.defaults with
    version := 4294967295, policy := .demote, holdLimit := 255, freeTarget := 8, eraseSlice := 16
    sequenceFloor := 281474976710655, mountFloor := 65535, formatCount := 65535 }

theorem witness_ConfigurationRecordsReadBack : widest.Ok := by
  unfold ConfigRecord.Ok
  decide +kernel

theorem witness_RejectedAndUnattachedFrames :
    base.inReset = false ∧ encodeCommand (.attach .c 1 1) = some (.c, 0x02, [1, 1]) ∧
      encodeCommand (.load .c 0 0 [1]) = some (.c, 0x11, [0, 0, 0, 1]) ∧ Instr.wf (.load .c 0 0 [1]) = true ∧
      (base.port .c).attached = false := by decide +kernel

/-- RUN's state in another mode. -/
def inMode (m : Mode) (claimant : Option Port) (phase : ClaimPhase) : State :=
  { base with control := { base.control with mode := m, claimant := claimant, phase := phase } }

theorem witness_ModeTableRefusals :
    encodeCommand (.lockConfig .a) = some (.a, 0x55, []) ∧ (inMode .mounting none .none).control.mode = .mounting ∧
      0x55#8 ∉ [0x01#8, 0x02, 0x03, 0x10, 0x13, 0x30, 0x31] ∧
      ((inMode .mounting none .none).port .a).attached = true := by decide +kernel

theorem witness_ModeTableRefusals_cursors :
    encodeCommand (.rewind .a 0) = some (.a, 0x24, [0]) ∧ (inMode .frozen (some .b) .active).control.mode = .frozen ∧
      (inMode .frozen (some .b) .active).control.claimant ≠ some .a ∧
      encodeCommand (.openCursor .a 1 0 0) = some (.a, 0x20, [0, 1, 0, 0]) ∧
      encodeCommand (.readWindow .a 0 1) = some (.a, 0x28, [0, 0, 1]) := by decide +kernel

theorem witness_ModeTableRefusals_service :
    encodeCommand (.claimService .a 1) = some (.a, 0x40, [1]) ∧ (inMode .draining (some .b) .draining).control.mode = .draining ∧
      encodeCommand (.releaseService .a) = some (.a, 0x41, []) ∧ base.control.mode = .run ∧
      encodeCommand (.commitConfig .a 1) = some (.a, 0x54, [1]) ∧ (inMode .frozen none .none).control.claimant = none := by
  decide +kernel

theorem witness_admits_other : base.admits .a .other := ⟨rfl, rfl, rfl⟩

/-- On an attached and on a detached port. -/
theorem witness_QueriesAnswerTheirFields :
    base.inReset = false ∧ (base.port .a).attached = true ∧ (base.port .c).attached = false ∧ base.admits .a .other ∧
      (2#8).toNat = 2 ∧ (64#8).toNat = 64 :=
  ⟨rfl, rfl, rfl, witness_admits_other, rfl, rfl⟩

theorem witness_AttachStoresLeaseAndMask :
    claimed.inReset = false ∧ (claimed.port .a).attached = true ∧ claimed.control.claimant = some .a ∧
      claimed.control.phase = .active := by decide +kernel

/-- A claimant with a loading buffer, a cursor whose fetch holds the array, a queued record and no time left on its lease
leaves. -/
def leaving : State :=
  let s := after (.claimService .a 5) (withBuffer base complete)
  let s := after (.readNext .a 11 9 0) (withCursor s (cursorOf .retaining .idle))
  { s.modPort .a fun u => { u with leaseTimer := some 0 } with
    writer := { s.writer with queue := [{ kind := .data, source := .host .a .one 4 true, stream := 1, length := 0, crc := 0 }] } }

theorem witness_PortsDepart :
    leaving.inReset = false ∧ (leaving.port .a).attached = true ∧ (leaving.port .a).leaseTimer = some 0 ∧
      ((leaving.port .a).buffer .zero).state = .loading ∧ (leaving.cursor 11).map (·.owner) = some .a ∧
      leaving.cursors.table.length = 12 ∧ leaving.seq.grant = .fetch .a (some 11) ∧
      leaving.control.claimant = some .a ∧ leaving.control.phase ≠ .ending ∧ leaving.control.operation = none ∧
      (base.port .a).leaseTimer ≠ some 0 := by
  decide +kernel

/-- A record that is being written, and one in the queue behind a waiting head whose space is being produced. -/
theorem witness_PortsDepart_committed :
    queued.inReset = false ∧ (queued.port .a).attached = true ∧ ((queued.port .a).buffer .zero).state = .writing ∧
      queued.writer.nextSequence ≠ 281474976710655 ∧ queued.writer.state ≠ .waiting ∧
      queued.writer.queue.map (·.source) = [.host .a .zero 9 true] := by decide +kernel

/-- R63: the record of a port that departs stays in the queue, and is not reported. -/
theorem test_departed_record_is_written :
    ((after (.detach .a) queued).port .a).buffer0 = (queued.port .a).buffer0 ∧
      (after (.detach .a) queued).writer.queue.map (·.source) = [.host .a .zero 9 false] ∧
      ((after (.appendWriteOut []) (after (.detach .a) queued)).port .a).lists.queue = [] ∧
      (after (.appendWriteOut []) (after (.detach .a) queued)).writer.newestDurable = 8 := by decide +kernel

theorem witness_PortsDepart_operation :
    (after (.commitConfig .a 6) claimed).inReset = false ∧
      ((after (.commitConfig .a 6) claimed).port .a).attached = true ∧
      (after (.commitConfig .a 6) claimed).control.operation = some { kind := .commitConfig, tag := 6, report := true } ∧
      (after (.commitConfig .a 6) claimed).control.claimant = some .a ∧
      (after (.commitConfig .a 6) claimed).control.phase ≠ .ending ∧
      (after (.commitConfig .a 6) claimed).writer.nextSequence ≠ 281474976710655 := by decide +kernel

/-! ### Appending -/

theorem witness_StagingCommands :
    loaded.inReset = false ∧ (loaded.port .a).attached = true ∧ loaded.control.mode ≠ .mounting ∧ 1 < (2#8).toNat ∧
      0#8 = BufferId.zero.byte ∧ 1#8 = BufferId.one.byte ∧ ([1#8] : List Byte) ≠ [] ∧
      64 < (List.replicate 65 0#8).length ∧ (inMode .mounting none .none).control.mode = .mounting := by decide +kernel

/-- RUN with a buffer in each of the states that COMMIT looks at. -/
theorem witness_CommitQueuesTheRecord_refusals :
    (base.port .a).attached = true ∧ ((base.port .a).buffer .zero).state = .empty ∧
      ((withBuffer base { complete with state := .faulted }).port .a).buffer0.state = .faulted ∧
      (queued.port .a).buffer0.state = .writing ∧ (loaded.port .a).buffer0.state = .loading := by decide +kernel

theorem witness_CommitQueuesTheRecord_loading :
    ((withBuffer base { complete with bytes := [1, 2] }).port .a).buffer0.bytes.length < 3 ∧
      ((withBuffer (inMode .frozen none .none) complete).control.mode ≠ .run) ∧
      (({ loaded with store := { loaded.store with active := { loaded.store.active with streams := [] } } } : State).store.active.stream
            1).writers.has .a = false ∧
      (loaded.store.active.stream 1).writers.has .a = true ∧ (loaded.store.active.stream 1).closed = false ∧
      16 ≤ ((loaded.modLists .a fun l => { l with reserved := 16 }).port .a).lists.reserved := by decide +kernel

theorem loaded_ready : loaded.CommitReady .a .zero := by constructor <;> decide +kernel

/-- At the head of an empty queue, and behind another entry. -/
theorem witness_CommitQueuesTheRecord :
    loaded.CommitReady .a .zero ∧ loaded.writer.queue = [] ∧ loaded.writer.nextSequence ≠ 281474976710655 ∧
      1 < loaded.segs.pool.length ∧ (withBuffer queued complete).CommitReady .a .zero ∧
      (withBuffer queued complete).writer.queue ≠ [] := by
  refine ⟨loaded_ready, ?_, ?_, ?_, by constructor <;> decide +kernel, ?_⟩ <;> decide +kernel

theorem witness_CommitQueuesTheRecord_room : loaded.RoomFor 3 3 7 := by constructor <;> decide +kernel

/-- RUN with a complete record, segment 3 full, the reserve alone in the pool, a retaining cursor that holds the ring
head, and a policy. -/
def pressed (policy : Policy) (mode : CursorMode) : State :=
  let s := withCursor loaded { cursorOf mode .idle with delivered := 3, acked := 3 }
  { s with
    segs := { s.segs with pool := [6], map := s.segs.map.set 1 (entryOf .open 6 7 (some 4092)) }
    store := { s.store with active := { s.store.active with policy := policy } } }

theorem pressed_ready (policy : Policy) (mode : CursorMode) : (pressed policy mode).CommitReady .a .zero := by
  constructor <;> cases policy <;> cases mode <;> decide +kernel

theorem pressed_no_room (policy : Policy) (mode : CursorMode) : ¬ ∃ i line, (pressed policy mode).RoomFor 3 i line := by
  rintro ⟨i, line, h⟩
  have e : (pressed policy mode).openSegment = some 3 := by cases policy <;> cases mode <;> decide +kernel
  have hi := h.opened
  rw [e] at hi
  cases hi
  have hr := h.room
  have f : ((pressed policy mode).seg 3).fill.getD 0 = 4092 := by cases policy <;> cases mode <;> decide +kernel
  rw [f] at hr
  omega

theorem witness_CommitUnderPressure (policy : Policy) :
    (pressed policy .retaining).CommitReady .a .zero ∧ (pressed policy .retaining).writer.queue = [] ∧
      (pressed policy .retaining).writer.nextSequence ≠ 281474976710655 ∧
      (pressed policy .retaining).writer.pressure ≠ .blocked ∧ (pressed policy .retaining).segs.pool.length ≤ 1 ∧
      (¬ ∃ i line, (pressed policy .retaining).RoomFor
          (((pressed policy .retaining).port .a).buffer .zero).length i line) ∧
      (pressed policy .retaining).reclaim = .idle ∧ (pressed policy .retaining).segs.dirty = [] ∧
      (pressed policy .retaining).eligible = false ∧
      (pressed policy .retaining).store.active.policy = policy ∧
      (pressed policy .retaining).cursors.table.length = 12 := by
  refine ⟨pressed_ready policy .retaining, ?_, ?_, ?_, ?_, pressed_no_room policy .retaining, ?_⟩ <;>
    cases policy <;> decide +kernel

theorem witness_CommitUnderPressure_not_blocked : (pressed .hold .lossy).eligible = true := by decide +kernel

/-- The entry of the record that waits. -/
def waitingEntry : Entry := loaded.newEntry .a .zero 9

/-- The record's write-out holds the array, with a pool, in a claim phase. -/
def writing (pool : List Nat) (phase : ClaimPhase) : State :=
  { queued with segs := { queued.segs with pool := pool }, control := { queued.control with phase := phase } }

theorem queued_head : queued.HeadAt waitingEntry [] 3 7 := by
  constructor
  case finds =>
    constructor
    case array => rfl
    all_goals decide +kernel
  case room => constructor <;> decide +kernel
  case journal => decide +kernel
  case blank => decide +kernel

/-- R61: a header program cut short is found INVALID, whatever the event gives, or nothing of it is left. -/
theorem test_cut_header :
    recordAt (after (.resetAsserted (.append [.left [0xA7]] none)) queued).array 3 7 = .invalid ∧
      recordAt (after (.resetAsserted (.append [.left []] none)) queued).array 3 7 = .blank := by decide +kernel

/-- R61: a write-out that a reset stops leaves no DURABLE record, also where each of its programs was done. -/
theorem test_cut_commit :
    (match recordAt (after (.resetAsserted (.append [.done, .done, .done] none)) queued).array 3 7 with
      | .torn h => h.sequence
      | _ => 0) = 8 := by decide +kernel

theorem queued_finds : queued.WritesAt waitingEntry 3 7 := ⟨queued_head, by decide +kernel⟩

/-- The write-out that a reset stops, in the OPEN segment and with a FREE one for the retry. -/
theorem witness_ResetsStopTheArray_append :
    queued.eraseActive = false ∧ queued.HeadAt waitingEntry [] 3 7 ∧ 3 ∉ queued.segs.pool ∧ queued.seq.erases = [] ∧
      queued.segs.pool = 4 :: [5, 6] ∧ queued.segs.generation < 4294967295 ∧
      queued.array.blank (address 4 16) 20 = true ∧
      queued.array.blank (lineAddress 4 4) (16 * (2 + (waitingEntry.length + 15) / 16)) = true :=
  ⟨by decide +kernel, queued_head, by decide +kernel⟩

theorem writing_head (pool : List Nat) (phase : ClaimPhase) : (writing pool phase).HeadAt waitingEntry [] 3 7 :=
  have f := queued_head.finds
  have r := queued_head.room
  { finds :=
      { array := f.array, outsideReset := f.outsideReset, grant := f.grant, writing := f.writing, queue := f.queue
        payload := f.payload, short := f.short, left := f.left, number := f.number, map := f.map }
    room := { opened := r.opened, atLine := r.atLine, room := r.room }
    journal := queued_head.journal
    blank := queued_head.blank }

theorem writing_finds (pool : List Nat) (phase : ClaimPhase) : (writing pool phase).WritesAt waitingEntry 3 7 :=
  ⟨writing_head pool phase, queued_finds.sequence⟩

theorem witness_WriteOutMakesTheRecordDurable :
    (writing [4, 5, 6] .none).HeadAt waitingEntry [] 3 7 ∧ (writing [4, 5, 6] .none).control.phase ≠ .draining ∧
      (writing [4, 5, 6] .none).writer.nextSequence + 1 < 281474976710655 ∧
      waitingEntry.source = .host .a .zero 9 true :=
  ⟨writing_head _ _, nofun, queued_finds.sequence, rfl⟩

/-- An entry of port B's buffer 1 of a payload length. -/
def nextEntry (length : Nat) : Entry :=
  { kind := .data, source := .host .b .one 4 true, stream := 2, length := length, crc := 0 }

/-- Segment 3 with room for many records, or for the head alone; a pool. -/
def followedSegs (full : Bool) (pool : List Nat) : SegmentManager :=
  { queued.segs with
    pool := pool, map := queued.segs.map.set 1 (entryOf .open 6 7 (some (if full = true then 4089 else 3))) }

/-- The write-out holds the array with an entry behind its head, with a next sequence number, in a mode and a claim of port
A in a phase. -/
def followed (full : Bool) (length : Nat) (pool : List Nat) (sequence : Nat) (mode : Mode) (phase : ClaimPhase) : State :=
  { queued with
    segs := followedSegs full pool
    writer := { queued.writer with queue := [waitingEntry, nextEntry length], nextSequence := sequence }
    control :=
      { queued.control with
        mode := mode, phase := phase, claimant := some .a, request := some { tag := 5, report := true } } }

theorem followed_segs (full : Bool) :
    ({ queued with segs := followedSegs full [] } : State).openSegment = some 3 ∧
      (({ queued with segs := followedSegs full [] } : State).seg 3).fill = some (if full = true then 4089 else 3) ∧
      (followedSegs full []).map.length = 62 := by
  cases full <;> decide +kernel

theorem followed_head (full : Bool) (length : Nat) (pool : List Nat) (sequence : Nat) (mode : Mode) (phase : ClaimPhase)
    (h : sequence < 281474976710655) :
    (followed full length pool sequence mode phase).HeadAt waitingEntry [nextEntry length] 3
      (if full = true then 4093 else 7) :=
  have f := queued_head.finds
  have g := followed_segs full
  have e : ((followed full length pool sequence mode phase).seg 3).fill = some (if full = true then 4089 else 3) := g.2.1
  { finds :=
      { array := f.array, outsideReset := f.outsideReset, grant := f.grant, writing := f.writing, queue := rfl
        payload := f.payload, short := f.short, left := h, number := f.number, map := g.2.2 }
    room :=
      { opened := g.1
        atLine := by rw [e]; cases full <;> rfl
        room := by rw [e]; cases full <;> decide }
    journal := queued_head.journal
    blank := by cases full <;> rfl }

/-- A record behind it, which fits, or, with the OPEN segment full, is stuck; its pressure is not blocked before. -/
theorem witness_WriteOutMakesTheRecordDurable_behind (full : Bool) :
    (followed full 1024 [6] 8 .run .none).HeadAt waitingEntry [nextEntry 1024] 3 (if full = true then 4093 else 7) ∧
      (followed full 1024 [6] 8 .run .none).writer.nextSequence + 1 < 281474976710655 ∧
      (followed full 1024 [6] 8 .run .none).writer.pressure ≠ .blocked ∧
      (nextEntry 1024).kind ≠ .mount ∧ (followed full 1024 [6] 8 .run .none).segs.pool.length ≤ 1 ∧
      (followed full 1024 [6] 8 .run .none).reclaim = .idle ∧ (followed full 1024 [6] 8 .run .none).segs.dirty = [] := by
  refine ⟨followed_head _ _ _ _ _ _ (by decide), ?_⟩
  cases full <;> decide +kernel

theorem witness_WriteOutMakesTheRecordDurable_stuck (full : Bool) :
    4092 < (((followed full 1024 [6] 8 .run .none).seg 3).fill.getD 0 + (2 + (3 + 15) / 16)) +
        (2 + ((nextEntry 1024).length + 15) / 16) ↔ full = true := by
  cases full <;> decide +kernel

/-- The last sequence number, in RUN and in a drain. -/
theorem witness_WriteOutMakesTheRecordDurable_last (mode : Mode) (phase : ClaimPhase) :
    (followed false 3 [4, 5, 6] 281474976710654 mode phase).HeadAt waitingEntry [nextEntry 3] 3 7 ∧
      (followed false 3 [4, 5, 6] 281474976710654 mode phase).control.mode = mode ∧
      (followed false 3 [4, 5, 6] 281474976710654 mode phase).control.phase = phase ∧
      (∀ f ∈ [nextEntry 3], ∃ q c own ownReport, f.source = .host q c own ownReport) ∧
      (followed false 3 [4, 5, 6] 281474976710654 mode phase).writer.nextSequence = 281474976710654 :=
  ⟨followed_head false _ _ _ _ _ (by decide), rfl, rfl,
    fun f h => ⟨.b, .one, 4, true, by rw [List.mem_singleton.mp h]; rfl⟩, rfl⟩

/-- R52, R104: behind the record a head becomes blocked where a retaining cursor holds the ring head. -/
theorem test_next_head_becomes_blocked :
    let c := { cursorOf .retaining .idle with delivered := 3, acked := 3 }
    (after (.appendWriteOut []) (withCursor (followed true 1024 [6] 8 .run .none) c)).writer.pressure = .blocked ∧
      (after (.appendWriteOut []) (followed true 1024 [6] 8 .run .none)).writer.pressure = .waiting := by decide +kernel

/-- R123: the write-out that assigns the last number freezes the part. -/
theorem test_last_sequence_number_freezes :
    let t := after (.appendWriteOut []) { queued with writer := { queued.writer with nextSequence := 281474976710654 } }
    t.control.mode = .frozen ∧ t.control.frozen = { media := false, sequence := true } ∧
      t.writer.newestDurable = 281474976710654 := by decide +kernel

/-- A header, a payload line and a COMMIT mark that may fail. -/
theorem waiting_may_fail : ∀ n ≤ 2, waitingEntry.MayFail (queued.entryPayload waitingEntry) n := by
  intro n hn
  refine ⟨hn, fun _ _ => ?_⟩
  obtain rfl : n = 1 := by
    have : n ≤ (waitingEntry.length + 15) / 16 := ‹_›
    have e : waitingEntry.length = 3 := rfl
    omega
  exact ⟨1, by decide +kernel, by decide⟩

theorem witness_WriteOutEndsInMediaFault :
    (writing [] .none).WritesAt waitingEntry 3 7 ∧ (writing [] .none).control.phase ≠ .draining ∧
      (writing [] .none).segs.pool = [] ∧ (writing [] .none).array.blank (address 3 36) 12 = true ∧
      (∀ n ≤ 2, waitingEntry.MayFail ((writing [] .none).entryPayload waitingEntry) n) ∧
      ((writing [] .none).seg 3).last < 281474976710656 :=
  ⟨writing_finds _ _, nofun, rfl, rfl, waiting_may_fail, by decide +kernel⟩

theorem writing_fresh (s : State) (j : Nat) (rest : List Nat) (a : s.array = []) (p : s.segs.pool = j :: rest)
    (g : s.segs.generation < 4294967295) (r : 2 ≤ j ∧ j ≤ 63) : s.FreshFor 3 j rest := by
  refine ⟨p, r, g, ?_, ?_⟩ <;> rw [a] <;> rfl

theorem witness_WriteOutRetriesOnce :
    (writing [4, 5, 6] .none).WritesAt waitingEntry 3 7 ∧ waitingEntry.source = .host .a .zero 9 true ∧
      (writing [4, 5, 6] .none).FreshFor waitingEntry.length 4 [5, 6] ∧
      (writing [4, 5, 6] .none).array.blank (address 3 36) 12 = true ∧
      ((writing [4, 5, 6] .none).seg 3).last < 281474976710656 ∧
      (writing [4, 5, 6] .none).array.blank (address 4 36) 12 = true ∧
      ∀ n ≤ 2, waitingEntry.MayFail ((writing [4, 5, 6] .none).entryPayload waitingEntry) n :=
  ⟨writing_finds _ _, rfl, writing_fresh _ _ _ rfl rfl (by decide +kernel) (by decide), rfl, by decide +kernel, rfl,
    waiting_may_fail⟩

/-- The write-out holds the array, with a last map entry of segment 3 and a pool. -/
def opening (third : SegEntry) (ring pool : List Nat) : State :=
  { queued with segs := { queued.segs with ring := ring, pool := pool, map := queued.segs.map.set 1 third } }

/-- With segment 3 full, and with no OPEN segment. -/
theorem witness_WriteOutOpensASegment :
    (opening (entryOf .open 6 7 (some 4090)) [2, 3] [4, 5]).WritesOut waitingEntry ∧
      (opening (entryOf .open 6 7 (some 4090)) [2, 3] [4, 5]).FreshFor waitingEntry.length 4 [5] ∧
      (opening (entryOf .open 6 7 (some 4090)) [2, 3] [4, 5]).openSegment = some 3 ∧
      4092 < ((opening (entryOf .open 6 7 (some 4090)) [2, 3] [4, 5]).seg 3).fill.getD 0 + (2 + (3 + 15) / 16) ∧
      (opening (entryOf .open 6 7 (some 4090)) [2, 3] [4, 5]).array.blank (address 3 36) 12 = true := by
  refine ⟨⟨?_, by decide +kernel⟩, writing_fresh _ _ _ rfl rfl (by decide +kernel) (by decide), by decide +kernel,
    by decide +kernel, rfl⟩
  constructor
  case array => rfl
  all_goals decide +kernel

/-- With one FREE segment, and with two. -/
theorem witness_WriteOutOpensASegment_none (rest : List Nat) :
    (opening (entryOf .sealed 6 7 (some 3)) [2, 3] (4 :: rest)).WritesOut waitingEntry ∧
      (opening (entryOf .sealed 6 7 (some 3)) [2, 3] (4 :: rest)).FreshFor waitingEntry.length 4 rest ∧
      (opening (entryOf .sealed 6 7 (some 3)) [2, 3] (4 :: rest)).openSegment = none ∧
      (opening (entryOf .sealed 6 7 (some 3)) [2, 3] (4 :: rest)).segs.generation + 1 < 4294967295 ∧
      (opening (entryOf .sealed 6 7 (some 3)) [2, 3] (4 :: rest)).control.phase ≠ .draining := by
  have h := queued_head.finds
  refine ⟨⟨?_, queued_finds.sequence⟩, writing_fresh _ _ _ rfl rfl ?_ (by decide), ?_, ?_, nofun⟩
  · exact
      { array := h.array, outsideReset := h.outsideReset, grant := h.grant, writing := h.writing, queue := h.queue
        payload := h.payload, short := h.short, left := h.left, number := h.number
        map := (by decide +kernel : (opening (entryOf .sealed 6 7 (some 3)) [2, 3] []).segs.map.length = 62) }
  · show queued.segs.generation < 4294967295
    decide +kernel
  · show (opening (entryOf .sealed 6 7 (some 3)) [2, 3] []).openSegment = none
    decide +kernel
  · show queued.segs.generation + 1 < 4294967295
    decide +kernel

/-- Two FREE segments, blank where they are marked and opened. -/
theorem witness_WriteOutOpensASegment_two :
    Memory.blank [] (address 4 12) 4 = true ∧ Memory.blank [] (address 5 12) 4 = true ∧
      Memory.blank [] (address 5 16) 20 = true ∧ Memory.blank [] (lineAddress 5 4) (16 * (2 + (3 + 15) / 16)) = true ∧
      (opening (entryOf .sealed 6 7 (some 3)) [2, 3] [4, 5]).array = [] := by
  decide +kernel

/-- R35, R53: the second segment holds the record, and the first one is DIRTY. -/
theorem test_second_open :
    let t := after (.appendWriteOut [.left []]) (opening (entryOf .sealed 6 7 (some 3)) [2, 3] [4, 5])
    t.segs.ring = [2, 3, 5] ∧ t.segs.dirty = [4] ∧ (t.seg 4).faults = 1 ∧ (t.seg 5).last = 8 ∧
      t.writer.newestDurable = 8 := by decide +kernel

/-- The write-out that a reset stops in its SEALED or its OPENED program. -/
theorem witness_ResetsStopTheArray_groups :
    (opening (entryOf .open 6 7 (some 4090)) [2, 3] [4, 5]).eraseActive = false ∧
      (opening (entryOf .open 6 7 (some 4090)) [2, 3] [4, 5]).WritesHead waitingEntry [] ∧
      3 ∉ (opening (entryOf .open 6 7 (some 4090)) [2, 3] [4, 5]).segs.pool ∧
      (opening (entryOf .open 6 7 (some 4090)) [2, 3] [4, 5]).seq.erases = [] ∧
      ((opening (entryOf .open 6 7 (some 4090)) [2, 3] [4, 5]).seg 3).last < 281474976710656 ∧
      (opening (entryOf .sealed 6 7 (some 3)) [2, 3] [4]).WritesHead waitingEntry [] :=
  ⟨by decide +kernel, witness_WriteOutOpensASegment.1.head, by decide +kernel, by decide +kernel, by decide +kernel,
    (witness_WriteOutOpensASegment_none []).1.head⟩

/-- R61: a SEALED program cut short does not seal, also where the bits it leaves are the group of last sequence 279, which
contains every bit of that of 7. -/
theorem test_cut_seal :
    sealedGroup 279 = [0x5A, 0x5A, 0x00, 0x03, 0, 0, 0, 0, 0x01, 0x17, 0xF9, 0xAE] ∧
      readSealed
          (after (.resetAsserted (.append [.left (sealedGroup 279)] none))
              (opening (entryOf .open 6 7 (some 4090)) [2, 3] [4, 5])).array 3 ≠
        .valid := by decide +kernel

/-- The write-out of a system entry of a kind holds the array, under a claim of port A with an operation. -/
def recording (kind : RecordKind) (operation : Option ServiceOperation) (phase : ClaimPhase) : State :=
  { writing [] phase with
    writer :=
      { queued.writer with
        queue := [{ kind := kind, source := .part [1, 2, 3], stream := 0, length := 3, crc := crc32 [1, 2, 3] }] }
    control :=
      { queued.control with
        claimant := if operation = none then none else some .a, phase := phase, operation := operation } }

theorem recording_finds (kind : RecordKind) (operation : Option ServiceOperation) :
    (recording kind operation .active).WritesAt
      { kind := kind, source := .part [1, 2, 3], stream := 0, length := 3, crc := crc32 [1, 2, 3] } 3 7 :=
  have h := queued_head
  have f := h.finds
  { lone :=
      { finds :=
          { array := f.array, outsideReset := f.outsideReset, grant := f.grant, writing := f.writing, queue := rfl
            payload := rfl, short := ⟨(by decide : (3 : Nat) ≤ 1024), (by decide : (0 : Nat) ≤ 15)⟩
            left := f.left, number := f.number, map := f.map }
        room := { opened := h.room.opened, atLine := h.room.atLine, room := h.room.room }
        journal := h.journal
        blank := h.blank }
    sequence := queued_finds.sequence }

/-- The write-out of a system entry with no OPEN segment and segment 4 the first FREE one. -/
def recordingNew (kind : RecordKind) (operation : Option ServiceOperation) (rest : List Nat) : State :=
  { recording kind operation .active with segs := (opening (entryOf .sealed 6 7 (some 3)) [2, 3] (4 :: rest)).segs }

theorem recordingNew_opens (kind : RecordKind) (operation : Option ServiceOperation) (rest : List Nat) :
    let s := recordingNew kind operation rest
    s.WritesOut { kind := kind, source := .part [1, 2, 3], stream := 0, length := 3, crc := crc32 [1, 2, 3] } ∧
      s.control.phase ≠ .draining ∧ s.openSegment = none ∧ s.FreshFor 3 4 rest := by
  have h := (recording_finds kind operation).lone.finds
  refine ⟨⟨?_, queued_finds.sequence⟩, nofun, ?_, writing_fresh _ _ _ rfl rfl ?_ (by decide)⟩
  · exact
      { array := h.array, outsideReset := h.outsideReset, grant := h.grant, writing := h.writing, queue := h.queue
        payload := h.payload, short := h.short, left := h.left, number := h.number
        map := (witness_WriteOutOpensASegment_none rest).1.head.map }
  · exact (witness_WriteOutOpensASegment_none rest).2.2.1
  · show queued.segs.generation < 4294967295
    decide +kernel

/-- Every way in which a system entry comes out, with the OPEN segment and without one. -/
theorem witness_SystemEntriesTellTheirProducers (kind : RecordKind) (operation : Option ServiceOperation) :
    let e : Entry := { kind := kind, source := .part [1, 2, 3], stream := 0, length := 3, crc := crc32 [1, 2, 3] }
    let refused := [.done, .left [], .done, .done]
    (recording kind operation .active).WritesOut e ∧ (recording kind operation .active).control.phase ≠ .draining ∧
      (recording kind operation .active).ComesOut e true [] [] ∧
      (recording kind operation .active).ComesOut e false [.left [], .done, .done] [(3, .record)] ∧
      (recordingNew kind operation []).ComesOut e true [] [] ∧
      (recordingNew kind operation []).ComesOut e false [.left []] [(4, .open)] ∧
      (recordingNew kind operation []).ComesOut e false refused [(4, .record)] ∧
      (recordingNew kind operation [5]).ComesOut e true [.left []] [(4, .open)] ∧
      (recordingNew kind operation [5]).ComesOut e true refused [(4, .record)] ∧
      (recordingNew kind operation [5]).ComesOut e false [.left [], .done, .left []] [(4, .open), (5, .open)] ∧
      (recordingNew kind operation [5]).ComesOut e false (refused ++ [.done, .left []]) [(4, .record), (5, .record)] ∧
      (recordingNew kind operation [5]).ComesOut e false (refused ++ [.left []]) [(4, .record), (5, .open)] := by
  have w := recording_finds kind operation
  have n := fun rest => recordingNew_opens kind operation rest
  have five : (recordingNew kind operation [5]).FreshNext 3 5 := ⟨by decide, rfl, rfl⟩
  have fails (rest : List Nat) := State.FirstAttemptFails.opened (e :=
    { kind := kind, source := .part [1, 2, 3], stream := 0, length := 3, crc := crc32 [1, 2, 3] })
    (n rest).2.2.1 (n rest).2.2.2 rfl
  exact ⟨⟨w.lone.finds, w.sequence⟩, nofun, .inPlace w, .recordFails (.inPlace w rfl), .opened (n []).2.2.1 (n []).2.2.2,
    .openFails (n []).2.2.1 (n []).2.2.2, .recordFails (fails []),
    .openedNext (n [5]).2.2.1 (n [5]).2.2.2 five (by decide), .retried (fails [5]) five (by decide),
    .opensFail (n [5]).2.2.1 (n [5]).2.2.2 five (by decide), .recordsFail (fails [5]) five (by decide) rfl,
    .retryOpenFails (fails [5]) five (by decide)⟩

/-- R57, R135: a FORMAT record that is not written, for two failed opens, completes FORMAT with MEDIA_FAULT. -/
theorem test_format_record_not_written :
    ((after (.appendWriteOut [.left [], .done, .left []])
            (recordingNew .format (some { kind := .format, tag := 6, report := true }) [5])).port .a).lists.notices =
      [.mediaFault 4 .open, .mediaFault 5 .open] := by decide +kernel

/-- R136: a stopped write-out of the FORMAT record. -/
theorem witness_ResetsStopTheArray_format :
    (recordingNew .format none [5]).eraseActive = false ∧
      (recordingNew .format none [5]).WritesHead
        { kind := .format, source := .part [1, 2, 3], stream := 0, length := 3, crc := crc32 [1, 2, 3] } [] ∧
      (recordingNew .format none [5]).openSegment = none :=
  ⟨by decide +kernel, (recordingNew_opens _ _ _).1.head, (recordingNew_opens _ _ _).2.2.1⟩

/-- R61, R136: its OPENED group is not left whole, as that of another record is. -/
theorem test_cut_format_record :
    let opened (kind : RecordKind) (media : List Programmed) : Reading :=
      readOpened (after (.resetAsserted (.append media none)) (recordingNew kind none [5])).array 4
    opened .config [.done] = .valid ∧ opened .format [.done] = .absent ∧ opened .format [.left [0x00]] = .damaged := by
  decide +kernel

/-! ### The sequencer -/

/-- A fetch of port A in the list, beside whatever else is pending. -/
def fetching (s : State) : State := s.joinFetch 11 .a false

/-- RUN with one free segment, a retire request made, and segment 63 DIRTY. -/
def retiringDirty : State :=
  { base with
    segs := { base.segs with pool := [6], dirty := [63], map := base.segs.map.set 61 (entryOf .dirty 0 0 none) }
    reclaim := .selecting }

/-- RUN with one free segment, a retire request made, and a lossy cursor at position 3. -/
def retiringRing : State :=
  let s := withCursor base { cursorOf .lossy .idle with delivered := 3, acked := 3 }
  { s with segs := { s.segs with pool := [6] }, reclaim := .selecting }

theorem retiring_wants : retiringDirty.WantsRetire ∧ retiringRing.WantsRetire :=
  ⟨⟨.inl rfl, nofun, by decide +kernel, rfl, .inl nofun⟩, ⟨.inl rfl, nofun, by decide +kernel, rfl, .inr (by decide +kernel)⟩⟩

/-- A free array with an append request. -/
def requesting : State := { queued with writer := { queued.writer with state := .requesting }, seq := base.seq }

theorem base_wants_nothing (s : State) (h : s.store.active.freeTarget ≤ s.segs.pool.length) : ¬ s.WantsRetire :=
  fun w => Nat.lt_irrefl _ (Nat.lt_of_lt_of_le w.2.2.1 h)

theorem witness_GrantOrder :
    retiringDirty.arrayFree = true ∧ retiringDirty.reclaim = .selecting ∧ requesting.arrayFree = true ∧
      requesting.reclaim = .idle ∧ requesting.appendPending = true ∧ (fetching base).arrayFree = true ∧
      (fetching base).fetchPending .a = true ∧ base.fetchPending .b = false ∧
      (fetching base).appendPending = false := by decide +kernel

theorem witness_GrantOrder_no_retire :
    ¬ requesting.WantsRetire ∧ ¬ (fetching base).WantsRetire ∧
      ({ retiringRing with reclaim := .idle } : State).WantsRetire :=
  ⟨base_wants_nothing _ (by decide +kernel), base_wants_nothing _ (by decide +kernel), retiring_wants.2⟩

theorem requesting_can_write : requesting.writer.queue = [waitingEntry] ∧ requesting.CanWrite waitingEntry :=
  ⟨by decide +kernel, by decide +kernel, .inr (.inl (by decide +kernel))⟩

theorem witness_GrantOrder_append :
    ({ requesting with seq := { requesting.seq with fetchCount := 4 } } : State).arrayFree = true ∧
      ({ requesting with seq := { requesting.seq with fetchCount := 4 } } : State).appendPending = true ∧
      ∀ p ∈ [Port.a, .b, .c], requesting.fetchPending p = false := by decide +kernel

/-- An erase that another operation has made wait. -/
def waiting (head : HeadState) : State :=
  { erasing 1 with seq := { (erasing 1).seq with head := head, slice := .stopped } }

theorem witness_GrantOrder_erases :
    ∀ head ∈ [HeadState.suspended, .pending],
      (waiting head).arrayFree = true ∧ (waiting head).configPending = false ∧
        (waiting head).appendPending = false ∧ (waiting head).seq.erases ≠ [] ∧ (waiting head).seq.head = head := by
  decide +kernel

/-- An ACTIVE erase beside a fetch, before and after the end of its slice; a held array; a free one. -/
theorem witness_GrantsActAtOnce :
    (fetching (erasing 1)).arrayFree = false ∧ (fetching (erasing 1)).seq.slice ≠ .elapsed ∧
      (fetching (erasing 1)).seq.grant = .none ∧ (fetching (erasing 1)).eraseActive = true ∧
      queued.arrayFree = false ∧ queued.eraseActive = false ∧
      (({ fetching (erasing 1) with seq := { (fetching (erasing 1)).seq with slice := .elapsed } } : State).seq.slice =
        .elapsed) := by decide +kernel

theorem witness_GrantsActAtOnce_free :
    (fetching base).settle.seq.grant = .fetch .a (some 11) ∧ requesting.settle.seq.grant = .append ∧
      requesting.writer.queue = [waitingEntry] ∧ requesting.writer.nextSequence ≠ 281474976710655 ∧
      1 < requesting.segs.pool.length ∧ (waiting .suspended).settle.seq.grant = .resume ∧
      (waiting .pending).settle.seq.grant = .start := by decide +kernel

/-- An append request whose head has lost its space: segment 3 full, the reserve alone in the pool, a lossy cursor below
the ring head's last record. -/
def emptied : State :=
  { requesting with
    segs := { requesting.segs with pool := [6], map := requesting.segs.map.set 1 (entryOf .open 6 7 (some 4092)) } }

theorem emptied_no_room : ¬ ∃ i line, emptied.RoomFor waitingEntry.length i line := by
  rintro ⟨i, line, h⟩
  have hi := h.opened
  rw [(by decide +kernel : emptied.openSegment = some 3)] at hi
  cases hi
  have hr := h.room
  rw [(by decide +kernel : (emptied.seg 3).fill.getD 0 = 4092)] at hr
  omega

theorem witness_GrantsActAtOnce_empty :
    emptied.appendPending = true ∧ emptied.writer.queue = [waitingEntry] ∧ ¬ emptied.CanWrite waitingEntry ∧
      emptied.writer.nextSequence ≠ 281474976710655 ∧ emptied.eligible = true := by
  have short : ¬ 1 < emptied.segs.pool.length := by decide +kernel
  refine ⟨by decide +kernel, by decide +kernel, fun h => ?_, by decide +kernel, by decide +kernel⟩
  rcases h.2 with h | h | h
  · exact emptied_no_room h
  · exact short h
  · exact nomatch h.1

/-- The same while the reclaim unit is at work, so that space is producible. -/
def emptiedBusy : State := { emptied with reclaim := .erasing 4 .dirty 1 }

theorem witness_GrantsActAtOnce_empty_free :
    emptiedBusy.arrayFree = true ∧ emptiedBusy.reclaim ≠ .selecting ∧ emptiedBusy.reclaim ≠ .idle ∧
      ∀ p ∈ [Port.a, .b, .c], emptiedBusy.fetchPending p = false := by decide +kernel

theorem witness_ErasesStartYieldAndResume :
    (erasing 1).inReset = false ∧ (erasing 1).seq.erases ≠ [] ∧ (erasing 1).seq.head = .active ∧
      (erasing 1).seq.slice = .running (3 + 1) ∧ (waiting .pending).settle.seq.grant = .start ∧
      (waiting .suspended).settle.seq.grant = .resume ∧ (waiting .pending).settle.inReset = false ∧
      (({ erasing 1 with seq := { (erasing 1).seq with slice := .running 0 } } : State).seq.slice = .running 0) := by
  decide +kernel

/-! ### Cursors -/

theorem witness_admits_cursor : base.admits .a .cursor := ⟨rfl, rfl, rfl⟩

theorem witness_OpenCursorTakesTheLowestSlot :
    base.admits .a .cursor ∧ base.formatInFlight = false ∧ base.ownedCount .a < 8 ∧ base.cursor 0 = none ∧
      base.writer.state ≠ .waiting :=
  ⟨witness_admits_cursor, rfl, by decide +kernel, rfl, nofun⟩

/-- A DATA head that waits for a retire which the acknowledged positions then hold back: the pressure is decided afresh. -/
def anew (policy : Policy) : State :=
  let s := after (.commit .a 0 9) (pressed policy .retaining)
  { s with
    writer := { s.writer with queue := [waitingEntry], state := .waiting, pressure := .waiting, holdTimer := none } }

theorem anew_no_room (policy : Policy) : ¬ ∃ i line, (anew policy).RoomFor waitingEntry.length i line := by
  rintro ⟨i, line, h⟩
  have hi := h.opened
  rw [(by cases policy <;> decide +kernel : (anew policy).openSegment = some 3)] at hi
  cases hi
  have hr := h.room
  rw [(by cases policy <;> decide +kernel : ((anew policy).seg 3).fill.getD 0 = 4092)] at hr
  omega

/-- Each policy, for a head that becomes blocked. -/
theorem witness_Redecides_blocks (policy : Policy) (h : policy ≠ .demote) :
    (anew policy).writer.state = .waiting ∧ (anew policy).reclaim = .idle ∧ (anew policy).segs.dirty = [] ∧
      (anew policy).eligible = false ∧ (anew policy).writer.pressure ≠ .blocked ∧
      (anew policy).writer.queue = waitingEntry :: [] ∧ (anew policy).writer.nextSequence ≠ 281474976710655 ∧
      waitingEntry.kind = .data ∧ (anew policy).segs.pool.length ≤ 1 ∧ (anew policy).store.active.policy = policy ∧
      (anew policy).control.phase ≠ .draining ∧ (anew policy).cursors.table.length = 12 ∧
      (anew policy).inReset = false := by
  cases policy <;> first | exact absurd rfl h | decide +kernel

/-- The other cases: no waiting head, space that can be produced, and a head that is blocked already. -/
theorem witness_Redecides :
    base.writer.state ≠ .waiting ∧ (anew .demote).writer.state = .waiting ∧ (anew .demote).eligible = true ∧
      (after (.commit .a 0 9) (pressed .hold .retaining)).writer.pressure = .blocked ∧
      (after (.commit .a 0 9) (pressed .hold .retaining)).writer.state = .waiting ∧
      (after (.commit .a 0 9) (pressed .hold .retaining)).eligible = false := by decide +kernel

/-- A table of 12 cursors, of which port A owns 8. -/
def crowded : State :=
  { base with
    cursors :=
      { base.cursors with
        table :=
          (List.range 12).map fun i => some { cursorOf .lossy .idle with owner := if i < 8 then .a else .b } } }

theorem witness_OpenCursorTakesTheLowestSlot_refused :
    (∀ id, id < 12 → crowded.cursor id ≠ none) ∧ crowded.ownedCount .a = 8 ∧
      (after (.format .a 6) claimed).formatInFlight = true := by decide +kernel

/-- A cursor of the port, in each mode and state. -/
theorem witness_own_cursor (mode : CursorMode) (state : CursorState) :
    (withCursor base (cursorOf mode state)).admits .a .cursor ∧
      (withCursor base (cursorOf mode state)).cursor (11#8).toNat = some (cursorOf mode state) ∧
      (cursorOf mode state).owner = .a ∧ (withCursor base (cursorOf mode state)).writer.state ≠ .waiting :=
  ⟨⟨rfl, rfl, rfl⟩, rfl, rfl, nofun⟩

theorem witness_CloseSeekAndAckSetPositions :
    (withCursor base (cursorOf .lossy .idle)).cursor (11#8).toNat = some (cursorOf .lossy .idle) ∧
      (withCursor base (cursorOf .lossy (.fetching { tag := 9, wait := 0, deadline := none }))).cursor (11#8).toNat =
        some (cursorOf .lossy (.fetching { tag := 9, wait := 0, deadline := none })) :=
  ⟨(witness_own_cursor _ _).2.1, (witness_own_cursor _ _).2.1⟩

theorem witness_CloseSeekAndAckSetPositions_positions :
    (cursorOf .lossy .idle).state = .idle ∧ (8#48).toNat - 1 ≤ base.writer.newestDurable ∧
      base.writer.newestDurable < (9#48).toNat - 1 ∧ (cursorOf .lossy .idle).acked < (6#48).toNat ∧
      (6#48).toNat ≤ (cursorOf .lossy .idle).delivered ∧ base.oldest ≤ (1#48).toNat - 1 := by decide +kernel

/-- RUN with segment 3 alone in the ring. -/
def shortRing : State := { base with segs := { base.segs with ring := [3] } }

theorem witness_CloseSeekAndAckSetPositions_gone :
    (withCursor shortRing (cursorOf .lossy .idle)).admits .a .cursor ∧ (5#48).toNat - 1 < shortRing.oldest ∧
      shortRing.oldest ≤ (6#48).toNat - 1 :=
  ⟨⟨rfl, rfl, rfl⟩, by decide +kernel, by decide +kernel⟩

theorem witness_RewindQueryAndSetMode :
    (withCursor base (cursorOf .lossy .idle)).admits .a .cursor ∧
      (withCursor base (cursorOf .lossy .idle)).cursor (11#8).toNat = some (cursorOf .lossy .idle) ∧
      (cursorOf .lossy .idle).mode ≠ .retaining ∧ 0#8 = CursorMode.retaining.byte ∧ 1 < (2#8).toNat :=
  ⟨⟨rfl, rfl, rfl⟩, rfl, nofun, rfl, by decide⟩

/-- Another port's cursor, and an id beyond the table. -/
theorem witness_RewindQueryAndSetMode_foreign :
    (withCursor base (cursorOf .lossy .idle)).admits .b .cursor ∧ base.admits .a .cursor ∧
      (∀ c, (withCursor base (cursorOf .lossy .idle)).cursor (11#8).toNat = some c → c.owner ≠ .b) ∧
      (∀ c, base.cursor (12#8).toNat = some c → c.owner ≠ .a) := by
  refine ⟨⟨rfl, rfl, rfl⟩, ⟨rfl, rfl, rfl⟩, fun c h => ?_, fun c h => ?_⟩
  · cases (witness_own_cursor .lossy .idle).2.1.symm.trans h
    decide
  · have e : base.cursor (12#8).toNat = none := by decide +kernel
    rw [e] at h
    cases h

theorem witness_ReadNextAndReadWindow :
    (∀ j c, (withCursor base (cursorOf .lossy .idle)).cursor j = some c → c.owner = .a → c.state = .idle) ∧
      (base.port .a).lists.reserved + (base.port .a).lists.queue.length < 16 ∧
      16 ≤ ((base.modLists .a fun l => { l with reserved := 16 }).port .a).lists.reserved ∧
      (64#8).toNat = 64 ∧ (0#8).toNat = 0 := by
  refine ⟨fun j c h _ => ?_, by decide +kernel⟩
  by_cases hj : j < 12
  · have : j = 11 ∨ (withCursor base (cursorOf .lossy .idle)).cursor j = none := by
      clear h
      revert j
      decide +kernel
    rcases this with rfl | e
    · cases h
      rfl
    · rw [e] at h
      cases h
  · have e : (withCursor base (cursorOf .lossy .idle)).cursor j = none := by
      have hl : (withCursor base (cursorOf .lossy .idle)).cursors.table.length = 12 := by decide +kernel
      unfold State.cursor
      rw [List.getD_eq_getElem?_getD, List.getElem?_eq_none (by omega)]
      rfl
    rw [e] at h
    cases h

/-- A journal whose segment 3 holds one durable record, and a fetch for port A's cursor 11, with a hint at the record,
that holds the array. -/
def reading : State :=
  let s := after (.appendWriteOut []) queued
  let hint : Hint := { segment := 3, generation := 1, line := 7 }
  let c :=
    { cursorOf .lossy (.fetching { tag := 4, wait := 0, deadline := none }) with hint := some hint, delivered := 7 }
  (fetching (withCursor s c)).hold (.fetch .a (some 11))

/-- The header of that record. -/
def readingHeader : Header := readHeader reading.array 3 7

/-- Where that fetch starts. -/
def readingPlace : FetchPlace := { segment := 3, line := 7, rest := [], delivered := 7 }

theorem reading_state :
    reading.inReset = false ∧ reading.seq.grant = .fetch .a (some 11) ∧
      (reading.cursor 11).map (·.state) = some (.fetching { tag := 4, wait := 0, deadline := none }) ∧
      (reading.cursor 11).map (·.hint) = some (some { segment := 3, generation := 1, line := 7 }) ∧
      reading.segs.ring = [2, 3] ∧ (reading.seg 3).generation = 1 := by decide +kernel

/-- It starts at its hint, where the record to deliver stands. -/
theorem witness_FetchGrantsDeliverOrEnd (c : Cursor) (h : reading.cursor 11 = some c) :
    reading.StartsAt c readingPlace ∧ FetchWalk reading.array c.filter 0 readingPlace readingPlace ∧
      recordAt reading.array 3 7 = .durable readingHeader ∧ 7 < readingHeader.sequence ∧
      (2#16).getLsbD readingHeader.stream.toNat = true ∧ c.filter = 2#16 := by
  have r := reading_state
  have hh : c.hint = some { segment := 3, generation := 1, line := 7 } := by simpa [h] using r.2.2.2.1
  have hd : c.delivered = 7 ∧ c.filter = 2#16 := by
    have : (reading.cursor 11).map (fun c => (c.delivered, c.filter)) = some (7, 2#16) := by decide +kernel
    simpa [h] using this
  refine ⟨?_, .start _, by decide +kernel, by decide +kernel, by decide +kernel, hd.2⟩
  have start : reading.StartsAt c _ :=
    .hint (before := [2]) (rest := []) ⟨hh, by simp [r.2.2.2.2.1], r.2.2.2.2.2⟩ r.2.2.2.2.1 (by decide)
  rw [hd.1] at start
  exact start

/-- The position after the record, where the records of the newest segment end. -/
theorem witness_FetchGrantsDeliverOrEnd_walk :
    FetchWalk reading.array 4 1 readingPlace { readingPlace with line := 10, delivered := 8 } ∧
      recordAt reading.array 3 10 = .blank := by
  have h : recordAt reading.array 3 7 = .durable readingHeader := by decide +kernel
  have f : readingHeader.sequence = 8 ∧ readingHeader.length = 3 ∧ (4#16).getLsbD readingHeader.stream.toNat = false := by
    decide +kernel
  refine ⟨?_, by decide +kernel⟩
  have s : FetchStep reading.array 4 true readingPlace _ :=
    .outside (by decide) h (by rw [f.1]; decide) f.2.2
  rw [f.1, f.2.1] at s
  exact .step (.start _) s

/-- The header of a record without a payload, whose commit has not been programmed. -/
def tornHeader : List Byte := headerBytes 0x01 1 0x01 3 2 0 0 0

/-- Segment 3 with `n` such records from its line 4 on. -/
def tornArray : Nat → Memory
  | 0 => []
  | n + 1 => (tornArray n).writeBytes (lineAddress 3 (4 + 2 * n)) tornHeader

theorem tornArray_wf (n : Nat) : (tornArray n).wf = true := by
  induction n with
  | zero => rfl
  | succ n ih => exact wf_writeBytes _ ih _

theorem tornArray_read (n : Nat) (hn : n ≤ 2000) : ∀ k o, o < 32 →
    (tornArray n).read (lineAddress 3 (4 + 2 * k) + o) = if k < n then tornHeader.getD o 0xFF else 0xFF := by
  have length : tornHeader.length = 24 := by decide +kernel
  induction n with
  | zero => exact fun _ _ _ => rfl
  | succ n ih =>
    intro k o ho
    by_cases inside : k = n ∧ o < 24
    · obtain ⟨rfl, h⟩ := inside
      rw [if_pos (by omega), List.getD_eq_getElem?_getD, List.getElem?_eq_getElem (by omega)]
      refine read_writeBytes_inside tornHeader (tornArray_wf k) ?_ o (by omega)
      simp only [length, lineAddress, address, Config.segmentBytes, Config.lineBytes, Config.arrayBytes]
      omega
    · rw [tornArray, read_writeBytes_outside, ih (by omega) k o ho]
      · by_cases h : k < n
        · rw [if_pos h, if_pos (by omega)]
        · rw [if_neg h]
          split
          · rw [List.getD_eq_getElem?_getD, List.getElem?_eq_none (by omega)]
            rfl
          · rfl
      · simp only [length, lineAddress, address, Config.segmentBytes, Config.lineBytes]
        omega

theorem tornArray_records {n k : Nat} (hn : n ≤ 2000) (hk : k < n) :
    ∃ h, h.length = 0 ∧ recordAt (tornArray n) 3 (4 + 2 * k) = .torn h := by
  refine ⟨readHeader (tornArray 1) 3 4, by decide +kernel, ?_⟩
  rw [recordAt_congr (m' := tornArray 1) (i' := 3) (line' := 4 + 2 * 0) fun o ho => by
    rw [tornArray_read n hn k o ho, tornArray_read 1 (by omega) 0 o ho, if_pos hk, if_pos (by omega)]]
  decide +kernel

/-- The last of 256 positions that count, which ends the grant. -/
theorem witness_FetchGrantsDeliverOrEnd_allowance (filter : BitVec 16) :
    FetchWalk (tornArray 256) filter 255 { readingPlace with line := 4 } { readingPlace with line := 514 } ∧
      FetchStep (tornArray 256) filter true { readingPlace with line := 514 } { readingPlace with line := 516 } := by
  have step (k : Nat) (hk : k < 256) :
      FetchStep (tornArray 256) filter true { readingPlace with line := 4 + 2 * k }
        { readingPlace with line := 4 + 2 * (k + 1) } := by
    obtain ⟨h, l, r⟩ := tornArray_records (n := 256) (by decide) hk
    have s := FetchStep.passed (filter := filter) (p := { readingPlace with line := 4 + 2 * k })
      (by show 4 + 2 * k < 4096; omega) (.inl r)
    rw [l] at s
    exact s
  have walk : ∀ k, k ≤ 255 →
      FetchWalk (tornArray 256) filter k { readingPlace with line := 4 } { readingPlace with line := 4 + 2 * k } := by
    intro k
    induction k with
    | zero => exact fun _ => .start _
    | succ k ih => exact fun h => .step (ih (by omega)) (step k (by omega))
  exact ⟨walk 255 (by decide), step 255 (by decide)⟩

/-- The cursor of a fetch with its hint at the first of these records. -/
def passingCursor : Cursor :=
  { cursorOf .lossy (.fetching { tag := 4, wait := 0, deadline := none }) with
    hint := some { segment := 3, generation := 1, line := 4 }, delivered := 7 }

/-- That fetch holds an array. -/
def passing (m : Memory) : State := { withCursor reading passingCursor with array := m }

theorem with_array (s : State) (m : Memory) :
    ({ s with array := m } : State).inReset = s.inReset ∧ ({ s with array := m } : State).seq.grant = s.seq.grant ∧
      (∀ id, ({ s with array := m } : State).cursor id = s.cursor id) ∧
      ∀ c place, s.StartsAt c place → ({ s with array := m } : State).StartsAt c place :=
  ⟨rfl, rfl, fun _ => rfl, fun _ _ h => match h with
    | .hint v r b => .hint v r b
    | .map n r b a => .map n r b a⟩

theorem witness_FetchGrantsDeliverOrEnd_passing (m : Memory) :
    (passing m).inReset = false ∧ (passing m).seq.grant = .fetch .a (some 11) ∧
      (passing m).cursor 11 = some passingCursor ∧ (passing m).array = m ∧
      (passing m).StartsAt passingCursor { readingPlace with line := 4 } := by
  have r :
      (withCursor reading passingCursor).inReset = false ∧
        (withCursor reading passingCursor).seq.grant = .fetch .a (some 11) ∧
        (withCursor reading passingCursor).cursor 11 = some passingCursor ∧
        3 ∈ (withCursor reading passingCursor).segs.ring ∧
        ((withCursor reading passingCursor).seg 3).generation = 1 ∧
        (withCursor reading passingCursor).segs.ring = [2] ++ 3 :: [] := by decide +kernel
  have k := with_array (withCursor reading passingCursor) m
  exact ⟨k.1.trans r.1, k.2.1.trans r.2.1, (k.2.2.1 11).trans r.2.2.1, rfl,
    k.2.2.2 passingCursor { readingPlace with line := 4 }
      (.hint (h := { segment := 3, generation := 1, line := 4 }) (before := [2]) (rest := [])
        ⟨rfl, r.2.2.2.1, r.2.2.2.2.1⟩ r.2.2.2.2.2 (by decide))⟩

/-- A read from the end of the journal, with a wait limit and a deadline, that holds the array. -/
def readingAtEnd (wait : Nat) (deadline : Option Nat) : State :=
  (fetching
    (withCursor base
      { cursorOf .lossy (.fetching { tag := 4, wait := wait, deadline := deadline }) with delivered := 7 })).hold
    (.fetch .a (some 11))

theorem witness_FetchGrantsDeliverOrEnd_end (wait : Nat) (deadline : Option Nat) :
    (readingAtEnd wait deadline).inReset = false ∧ (readingAtEnd wait deadline).seq.grant = .fetch .a (some 11) ∧
      (readingAtEnd wait deadline).cursor 11 =
        some { cursorOf .lossy (.fetching { tag := 4, wait := wait, deadline := deadline }) with delivered := 7 } ∧
      (∀ h, ¬ (readingAtEnd wait deadline).ValidHint
          { cursorOf .lossy (.fetching { tag := 4, wait := wait, deadline := deadline }) with delivered := 7 } h) ∧
      ∀ i ∈ (readingAtEnd wait deadline).segs.ring, ¬ (readingAtEnd wait deadline).HoldsAbove 7 i :=
  ⟨rfl, rfl, rfl, (fun _ h => nomatch h.1), fun i hi h =>
    Nat.not_lt.mpr ((by decide +kernel : ∀ i ∈ base.segs.ring, (base.seg i).last ≤ 7) i hi) h.2⟩

theorem witness_FetchesDeliverDurableRecordsOnly :
    exec (.fetchGrant .a) reading = .next (after (.fetchGrant .a) reading) ∧
      ((after (.fetchGrant .a) reading).port .a).window ≠ (reading.port .a).window :=
  ⟨rfl, by decide +kernel⟩

/-- READ WINDOW with its count, its range, both or neither wrong. -/
theorem witness_ReadNextAndReadWindow_window :
    let s := base.modPort .a fun u => { u with window := [1, 2, 3] }
    s.admits .a .cursor ∧ (s.port .a).window.length = (0#16).toNat + (3#8).toNat ∧
      (s.port .a).window.length < (1#16).toNat + (3#8).toNat ∧
      ¬ ((s.port .a).window = [] ∨ (s.port .a).window.length < (3#16).toNat + (0#8).toNat) ∧ 64 < (65#8).toNat ∧
      (base.port .a).window = [] := by
  refine ⟨⟨rfl, rfl, rfl⟩, ?_⟩
  decide +kernel

/-- R173: the line follows the lists and the mask. -/
theorem test_attn_line :
    (after (.appendWriteOut []) queued).attn .a = true ∧ queued.attn .a = false ∧
      (after (.attach .a 10 0) (base.handAll (.pressure 0))).attn .a = false := by decide +kernel

theorem witness_CompletionAndNoticeLists :
    base.inReset = false ∧ (base.port .a).attached = true ∧ (base.port .c).attached = false ∧
      0 < (queued.port .a).lists.reserved := by decide +kernel

/-! ### The service claim and FORMAT -/

theorem witness_ClaimServiceBeginsTheClaim :
    base.control.mode = .run ∧ base.control.claimant = none ∧ base.store.active.rights.has .a = true ∧
      (base.port .a).lease ≠ 0 ∧ (base.port .a).lists.reserved + (base.port .a).lists.queue.length < 16 ∧
      base.writer.state = .idle ∧ queued.writer.state ≠ .idle ∧ queued.control.mode = .run ∧
      queued.control.claimant = none := by decide +kernel

/-- The write-out of the only record left in the drain of port A's claim. -/
def draining : State :=
  { writing [4, 5, 6] .draining with
    control :=
      { queued.control with
        mode := .draining, phase := .draining, claimant := some .a, request := some { tag := 5, report := true } } }

theorem witness_DrainEndsInService :
    draining.WritesAt waitingEntry 3 7 ∧ waitingEntry.source = .host .a .zero 9 true ∧
      draining.control.mode = .draining ∧ draining.control.phase = .draining ∧ draining.control.claimant = some .a ∧
      draining.control.request = some { tag := 5, report := true } :=
  have h := queued_head
  have f := h.finds
  ⟨{ lone :=
        { finds :=
            { array := f.array, outsideReset := f.outsideReset, grant := f.grant, writing := f.writing, queue := f.queue
              payload := f.payload, short := f.short, left := f.left, number := f.number, map := f.map }
          room := { opened := h.room.opened, atLine := h.room.atLine, room := h.room.room }
          journal := h.journal
          blank := h.blank }
     sequence := queued_finds.sequence }, rfl, rfl, rfl, rfl, rfl⟩

theorem witness_ReleaseServiceEndsTheClaim :
    claimed.inReset = false ∧ (claimed.port .a).attached = true ∧ claimed.control.mode = .service ∧
      claimed.control.claimant = some .a ∧ claimed.control.phase ≠ .ending ∧ claimed.control.operation = none ∧
      (claimed.port .b).attached = true ∧ (after (.commitConfig .a 6) claimed).control.operation ≠ none := by
  decide +kernel

theorem witness_admits_service : claimed.admits .a .service ∧ claimed.admits .b .service :=
  ⟨⟨rfl, rfl, rfl⟩, ⟨rfl, rfl, rfl⟩⟩

theorem witness_ServiceCommandRefusals :
    encodeCommand (.editRights .b 1) = some (.b, 0x52, [1]) ∧ encodeCommand (.format .a 1) = some (.a, 0x42, [1]) ∧
      claimed.control.claimant = some .a ∧ claimed.control.phase ≠ .ending ∧ claimed.control.phase ≠ .draining ∧
      claimed.store.lock = false := by decide +kernel

theorem witness_ServiceCommandRefusals_states :
    (after (.lockConfig .a) claimed).store.lock = true ∧
      (after (.commitConfig .a 6) claimed).control.operation ≠ none ∧ draining.control.phase = .draining ∧
      (inMode .service (some .a) .ending).control.phase = .ending ∧
      ({ claimed with control := { claimed.control with frozen := { media := false, sequence := true } } } : State).control.frozen.sequence =
        true := by decide +kernel

theorem witness_ServiceCommandRefusals_slots :
    (claimed.modLists .a fun l => { l with reserved := 16 }).admits .a .service ∧
      (claimed.modLists .a fun l => { l with reserved := 16 }).control.operation = none ∧
      (claimed.modLists .a fun l => { l with reserved := 16 }).control.frozen.sequence = false ∧
      (claimed.modLists .a fun l => { l with reserved := 16 }).writer.queue = [] ∧
      16 ≤ ((claimed.modLists .a fun l => { l with reserved := 16 }).port .a).lists.reserved := by
  refine ⟨⟨rfl, rfl, rfl⟩, ?_⟩
  decide +kernel

/-- SERVICE without an OPEN segment. -/
def claimedSealed : State :=
  { claimed with segs := { claimed.segs with map := claimed.segs.map.set 1 (entryOf .sealed 6 7 (some 3)) } }

/-- What FORMAT asks of the claimant, the writer and the configuration. -/
theorem witness_FormatBegins :
    claimed.admits .a .service ∧ claimed.control.claimant = some .a ∧
      (claimed.control.phase = .active ∧ claimed.control.frozen.sequence = false ∧ claimed.control.operation = none) ∧
      (claimed.writer.queue = [] ∧ claimed.writer.state = .idle) ∧
      (claimed.port .a).lists.reserved + (claimed.port .a).lists.queue.length < 16 ∧
      (claimed.cursors.table.length = 12 ∧ claimed.store.lock = false ∧ claimed.store.active.version < 4294967295) := by
  refine ⟨witness_admits_service.1, ?_⟩
  decide +kernel

theorem witness_FormatBegins_segments :
    claimed.openSegment = some 3 ∧ claimedSealed.openSegment = none ∧ claimedSealed.control = claimed.control := by
  decide +kernel

/-- FORMAT at one of its steps, in the grant of a configuration program. -/
def formatAt (step : FormatStep) (operation : StoreOperation) : State :=
  { claimed with
    control :=
      { claimed.control with operation := some { kind := .format, tag := 6, report := true }, format := step }
    store := { claimed.store with operation := operation, candidate := some { ConfigRecord.defaults with version := 1 } }
    seq := { claimed.seq with grant := .config } }

theorem witness_FormatSealsAndRetires (step : FormatStep) (operation : StoreOperation) :
    (formatAt step operation).ArrayOk ∧ (formatAt step operation).inReset = false ∧
      (formatAt step operation).seq.grant = .config ∧ (formatAt step operation).segs.map.length = 62 ∧
      (formatAt step operation).control.format = step ∧ (formatAt step operation).store.operation = operation ∧
      (formatAt step operation).openSegment = some 3 ∧ (formatAt step operation).segs.ring = [2, 3] ∧
      (formatAt step operation).array = [] :=
  ⟨rfl, rfl, rfl, rfl, rfl, rfl, rfl, rfl, rfl⟩

theorem witness_FormatSealsAndRetires_operands :
    ((formatAt .seal .none).seg 3).last < 281474976710656 ∧ Memory.blank [] (address 3 36) 12 = true ∧
      Memory.blank [] (address 2 12) 4 = true ∧ Memory.blank [] (address 0 0) 40 = true ∧
      (formatAt .seal .none).store.active.version < 4294967295 ∧
      (formatAt .copyWrite (.copyWrite .format .program)).store.candidate =
        some { ConfigRecord.defaults with version := 1 } ∧
      ({ ConfigRecord.defaults with version := 1 } : ConfigRecord).Ok := by
  unfold ConfigRecord.Ok
  decide +kernel

theorem witness_FormatSealsAndRetires_cursors (step : FormatStep) (operation : StoreOperation) :
    ∀ id, (formatAt step operation).cursor id = none := by
  intro id
  have all : ∀ slot ∈ claimed.cursors.table, slot = none := by decide +kernel
  by_cases h : id < claimed.cursors.table.length
  · show claimed.cursors.table.getD id none = none
    rw [List.getD_eq_getElem?_getD, List.getElem?_eq_getElem h]
    exact all _ (List.getElem_mem h)
  · show claimed.cursors.table.getD id none = none
    rw [List.getD_eq_getElem?_getD, List.getElem?_eq_none (by omega)]
    rfl

/-- R37: FORMAT goes on with a segment whose SEALED program failed. -/
theorem test_format_seal_fails :
    let t := after (.configProgramGrant [.left []]) (formatAt .seal .none)
    (t.seg 3).state = .sealed ∧ (t.seg 3).faults = 1 ∧ t.control.format = .copyWrite := by decide +kernel

/-- FORMAT's erase of a segment is ACTIVE, with the segments before it FREE. -/
def formatErasing (i : Nat) (wasBad : Option BadReason) : State :=
  { formatAt (.erase i wasBad) .none with
    segs :=
      { claimed.segs with
        ring := [], pool := (List.range' 2 61).filter (· ≠ i), map := claimed.segs.map.set (i - 2) (entryOf .erasing 0 0 none) }
    seq :=
      { claimed.seq with
        grant := .none, erases := [{ requester := .format, segment := i, attempt := 1 }], head := .active
        slice := .running 4 } }

theorem witness_FormatErasesAndEnds :
    ∀ i ∈ [2, 63],
      (formatErasing i none).array = [] ∧ (formatErasing i none).inReset = false ∧
        (formatErasing i none).control.operation = some { kind := .format, tag := 6, report := true } ∧
        (formatErasing i none).control.claimant = some .a ∧ (formatErasing i none).control.phase ≠ .ending ∧
        (formatErasing i none).writer.queue = [] ∧ (formatErasing i none).writer.state = .idle ∧
        (formatErasing i none).segs.map.length = 62 ∧ ((formatErasing i none).seg i).eraseCount = some 0 ∧
        ((formatErasing i none).seg i).faults < 2 ∧ (formatErasing i none).segs.pool ≠ [] := by decide +kernel

/-- A FORMAT erase of segment 2 at the endurance limit, for a segment that was BAD, and a second attempt. -/
theorem witness_FormatErasesAndEnds_bad (reason : BadReason) :
    let s := formatErasing 2 (some reason)
    let old : State :=
      { s with segs := { s.segs with map := s.segs.map.set 0 { entryOf .erasing 0 0 none with eraseCount := some 99999 } } }
    s.control.format = .erase 2 (some reason) ∧ s.array = [] ∧
      badPresent (s.array.eraseSegment 2 (.left [(9, 0)])) 2 = false ∧
      badPresent (s.array.eraseSegment 2 (.left [(48, 0)])) 2 = true ∧ (old.seg 2).eraseCount = some 99999 :=
  ⟨rfl, rfl, (by decide +kernel : badPresent (Memory.eraseSegment [] 2 (.left [(9, 0)])) 2 = false),
    (by decide +kernel : badPresent (Memory.eraseSegment [] 2 (.left [(48, 0)])) 2 = true), rfl⟩

theorem witness_FormatErasesAndEnds_second :
    let s := formatErasing 63 none
    let second : State :=
      { s with seq := { s.seq with erases := [{ requester := .format, segment := 63, attempt := 2 }] } }
    second.segs.usable ≠ 8 ∧ second.writer.nextSequence ≠ 281474976710655 ∧ second.control.phase ≠ .ending ∧
      second.seq.head = .active := by decide +kernel

/-- The same at the endurance limit or with two program faults, for a segment that was not BAD, with 8 usable segments. -/
theorem witness_FormatErasesAndEnds_falls :
    ∀ entry ∈ [{ entryOf .erasing 0 0 none with eraseCount := some 99999 }, { entryOf .erasing 0 0 none with faults := 2 }],
      let s := formatErasing 2 none
      let falling : State := { s with segs := { s.segs with usable := 8, map := s.segs.map.set 0 entry } }
      falling.array = [] ∧ falling.inReset = false ∧ falling.control.format = .erase 2 none ∧
        falling.segs.map.length = 62 ∧ falling.segs.usable = 8 ∧ falling.control.mode ≠ .mounting ∧
        falling.control.phase ≠ .draining ∧ (falling.seg 2).eraseCount = entry.eraseCount ∧
        (falling.seg 2).faults = entry.faults := by decide +kernel

/-- R41, R134: FORMAT's segment is taken out of service and the part freezes. -/
theorem test_format_freezes_the_part :
    let s := formatErasing 2 none
    let second : State :=
      { s with
        segs := { s.segs with usable := 8 }
        seq := { s.seq with erases := [{ requester := .format, segment := 2, attempt := 2 }] } }
    let t := after (.eraseAttemptEnd (.left [(9, 0)]) []) second
    t.control.mode = .frozen ∧ t.segs.usable = 7 ∧ t.control.format = .retireSegment 3 none := by decide +kernel

/-- FORMAT without a cursor, and a version that cannot rise. -/
theorem witness_CopyWritesFail_version :
    claimedSealed.admits .a .service ∧ (∀ id, claimedSealed.cursor id = none) ∧
      ({ claimedSealed with
          store := { claimedSealed.store with
            active := { claimedSealed.store.active with version := 4294967295 } } } : State).store.active.version =
        4294967295 :=
  ⟨⟨rfl, rfl, rfl⟩, witness_FormatSealsAndRetires_cursors .none .none, rfl⟩

/-- The erase of a copy segment is ACTIVE. -/
def copyErasing : State := after .eraseStart (after (.commitConfig .a 6) claimed)

theorem witness_CopyWritesFail :
    copyErasing.array = [] ∧ copyErasing.inReset = false ∧
      copyErasing.control.operation = some { kind := .commitConfig, tag := 6, report := true } ∧
      copyErasing.control.claimant = some .a ∧ copyErasing.store.operation = .copyWrite .commitConfig .erase ∧
      copyErasing.seq.erases = [{ requester := .store, segment := 0, attempt := 1 }] ∧
      copyErasing.seq.head = .active ∧ copyErasing.store.selector = .default ∧ 0x7F#8 ≠ 0xFF := by decide +kernel

/-! ### The configuration store -/

theorem witness_ConfigurationCommands :
    base.admits .a .other ∧ base.store.active.rights.has .a = true ∧
      exec .tickCounterAdvance (after (.lockConfig .a) base) =
        .next (after .tickCounterAdvance (after (.lockConfig .a) base)) ∧
      (after (.lockConfig .a) base).store.lock = true :=
  ⟨witness_admits_other, rfl, rfl, by decide +kernel⟩

theorem witness_ConfigurationCommands_edits :
    claimed.admits .a .service ∧ claimed.control.claimant = some .a ∧ claimed.control.phase = .active ∧
      claimed.store.pendingCfg = some .defaults :=
  ⟨witness_admits_service.1, rfl, rfl, rfl⟩

theorem witness_CommitConfigBeginsTheCopyWrite :
    claimed.store.active.version ≠ 4294967295 ∧ claimed.control.operation = none ∧
      (claimed.port .a).lists.reserved + (claimed.port .a).lists.queue.length < 16 ∧
      ({ claimed with store := { claimed.store with active := { claimed.store.active with version := 4294967295 } } } : State).store.active.version =
        4294967295 := by decide +kernel

/-- SERVICE with the copy segment erased: the configuration program holds the array. -/
def programming : State := after (.eraseAttemptEnd .clean []) copyErasing

theorem witness_ConfigurationIsActivated :
    programming.ArrayOk ∧ programming.inReset = false ∧ programming.seq.grant = .config ∧
      programming.store.operation = .copyWrite .commitConfig .program ∧
      programming.store.candidate = some { ConfigRecord.defaults with version := 1 } ∧
      ({ ConfigRecord.defaults with version := 1 } : ConfigRecord).Ok ∧ programming.writer.queue = [] ∧
      programming.writer.nextSequence ≠ 281474976710655 ∧ 1 < programming.segs.pool.length ∧
      programming.store.selector = .default ∧ programming.array.blank (address 0 0) 40 = true := by
  unfold State.ArrayOk ConfigRecord.Ok
  decide +kernel

/-- The candidate's program, which a reset stops, with no valid copy in the target. -/
theorem witness_ResetsStopTheArray_candidate :
    programming.eraseActive = false ∧ readCopy programming.array 0 = none ∧ programming.store.selector = .default := by
  decide +kernel

set_option maxRecDepth 4096 in
/-- R119, R148: a candidate's program cut short leaves no valid copy, whatever the event gives. -/
theorem test_cut_candidate :
    readCopy (after (.resetAsserted (.config [.left [0, 0, 0, 1]] none)) programming).array 0 = none := by
  decide +kernel

/-- R148: one carried to its end leaves it whole. -/
theorem test_whole_candidate :
    (after (.resetAsserted (.config [.done, .done] none)) programming).array.readBytes (address 0 0) 4 =
      [0, 0, 0, 1] := by
  decide +kernel

/-- The same program pending at a free array. -/
theorem witness_GrantOrder_config :
    ({ programming with seq := { programming.seq with grant := .none } } : State).arrayFree = true ∧
      programming.reclaim = .idle ∧ programming.appendPending = false ∧
      (∀ p ∈ [Port.a, .b, .c], programming.fetchPending p = false) ∧ programming.configPending = true := by
  decide +kernel

/-! ### Reclaim -/

theorem witness_RetireGrantChoosesItsTarget :
    retiringDirty.arrayFree = true ∧ retiringDirty.reclaim = .selecting ∧ retiringDirty.WantsRetire ∧
      retiringDirty.segs.dirty = 63 :: [] :=
  ⟨rfl, rfl, retiring_wants.1, rfl⟩

theorem witness_RetireGrantChoosesItsTarget_ring :
    retiringRing.arrayFree = true ∧ retiringRing.reclaim = .selecting ∧ retiringRing.WantsRetire ∧
      retiringRing.segs.dirty = [] ∧ retiringRing.segs.ring = 2 :: 3 :: [] ∧
      (retiringRing.cursor 11).map (·.delivered) = some 3 ∧ retiringRing.overtakePosition 2 3 = 5 :=
  ⟨rfl, rfl, retiring_wants.2, rfl, rfl, rfl, by decide +kernel⟩

theorem witness_RetireGrantChoosesItsTarget_nothing :
    ({ base with reclaim := .selecting } : State).arrayFree = true ∧ ¬ ({ base with reclaim := .selecting } : State).WantsRetire :=
  ⟨rfl, base_wants_nothing _ (by decide +kernel)⟩

/-- The array is kept for each, with the conditions still met. -/
theorem retiring_kept : retiringDirty.settle.WantsRetire ∧ retiringRing.settle.WantsRetire :=
  ⟨⟨.inl (by decide +kernel), (fun _ h => nomatch h), by decide +kernel, by decide +kernel, .inl (by decide +kernel)⟩,
    ⟨.inl (by decide +kernel), (fun _ h => nomatch h), by decide +kernel, by decide +kernel, .inr (by decide +kernel)⟩⟩

/-- The retire grant of a DIRTY segment, before its event, and one whose conditions a claim has taken away since. -/
theorem witness_RetireGrantChoosesItsTarget_grant :
    retiringDirty.settle.ArrayOk ∧ retiringDirty.settle.inReset = false ∧ retiringDirty.settle.seq.grant = .retire ∧
      retiringDirty.settle.segs.dirty = 63 :: [] ∧ retiringDirty.settle.segs.map.length = 62 ∧
      retirePresent retiringDirty.settle.array 63 = false ∧ (after (.claimService .a 5) retiringDirty.settle).inReset = false ∧
      (after (.claimService .a 5) retiringDirty.settle).seq.grant = .retire := by
  unfold State.ArrayOk
  decide +kernel

theorem witness_RetireGrantChoosesItsTarget_gone :
    retiringDirty.settle.WantsRetire ∧ ¬ (after (.claimService .a 5) retiringDirty.settle).WantsRetire := by
  refine ⟨retiring_kept.1, fun w => ?_⟩
  have m : (after (.claimService .a 5) retiringDirty.settle).control.mode = .service ∧
      (after (.claimService .a 5) retiringDirty.settle).writer.state = .idle := by decide +kernel
  rcases w.1 with h | h | h
  · exact nomatch m.1.symm.trans h
  · exact nomatch m.1.symm.trans h
  · exact nomatch m.2.symm.trans h.1

/-- R96: the grant examines R95's conditions when it comes: after a claim the reclaim unit chooses nothing. -/
theorem test_retire_grant_after_a_claim :
    (after (.retireGrant ⟨[], false⟩) (after (.claimService .a 5) retiringDirty.settle)).reclaim = .idle ∧
      (after (.retireGrant ⟨[], false⟩) (after (.claimService .a 5) retiringDirty.settle)).segs.dirty = [63] ∧
      (after (.retireGrant ⟨[], false⟩) retiringDirty.settle).reclaim = .erasing 63 .dirty 1 := by decide +kernel

/-- A retire grant that holds the array on. -/
def retiring : State := after (.retireGrant ⟨[], true⟩) retiringDirty.settle

theorem witness_RetireGrantChoosesItsTarget_end :
    retiring.inReset = false ∧ retiring.seq.grant = .retiring ∧ retiring.reclaim = .erasing 63 .dirty 1 ∧
      retiring.seq.erases = [] := by decide +kernel

/-- R113: an erase of the configuration store that arrives during the retire grant takes the head. -/
theorem test_store_erase_during_a_retire_grant :
    let s := after (.commitConfig .a 6) (after (.claimService .a 5) retiring)
    let store : Erase := { requester := .store, segment := 0, attempt := 1 }
    s.seq.erases = [store] ∧ s.seq.grant = .retiring ∧ (s.seg 63).state = .erasing ∧
      (after (.retireGrant ⟨[], false⟩) s).seq.erases =
        [store, { requester := .reclaim, segment := 63, attempt := 1 }] ∧
      (after (.retireGrant ⟨[], false⟩) s).seq.grant = .start := by decide +kernel

theorem witness_RetireGrantRetiresTheRingHead :
    retiringRing.settle.ArrayOk ∧ retiringRing.settle.inReset = false ∧ retiringRing.settle.seq.grant = .retire ∧
      retiringRing.settle.WantsRetire ∧ retiringRing.settle.segs.dirty = [] ∧
      retiringRing.settle.segs.ring = 2 :: 3 :: [] ∧ retiringRing.settle.segs.map.length = 62 ∧
      retiringRing.settle.cursors.table.length = 12 ∧
      retiringRing.settle.array.blank (address 2 12) 4 = true := by
  refine ⟨?_, ?_, ?_, retiring_kept.2, ?_⟩ <;> (try unfold State.ArrayOk) <;> decide +kernel

/-- An erase of segment 2 whose entry has an erase count and a number of faults. -/
def worn (count : Option Nat) (faults : Nat) : State :=
  { erasing 2 with
    segs :=
      { (erasing 2).segs with
        map := (erasing 2).segs.map.set 0 { entryOf .erasing 0 0 none with eraseCount := count, faults := faults } } }

theorem witness_ErasedSegmentsReturnToThePool :
    ∀ count ∈ [none, some 0, some 99999],
      (worn count 2).array = [] ∧ (worn count 2).inReset = false ∧
        (worn count 2).seq.erases = { requester := .reclaim, segment := 2, attempt := 2 } :: [] ∧
        (worn count 2).seq.head = .active ∧ (worn count 2).reclaim = .erasing 2 .ring 2 ∧
        (worn count 2).control.format = .none ∧ (worn count 2).segs.map.length = 62 ∧
        ((worn count 2).seg 2).eraseCount = count ∧ ((worn count 2).seg 2).faults = 2 ∧
        (worn count 2).segs.usable ≠ 8 ∧ (worn count 2).writer.state ≠ .waiting := by decide +kernel

/-- Segment 2 is not in the pool, which stands in its wear order. -/
theorem witness_ErasedSegmentsReturnToThePool_order :
    2 ∉ (worn none 0).segs.pool ∧ (worn none 0).segs.InWearOrder ∧ 2 ∉ (formatErasing 2 none).segs.pool ∧
      (formatErasing 2 none).segs.InWearOrder := by
  unfold SegmentManager.InWearOrder
  decide +kernel

/-- R30: the segment erased once joins behind those never erased. -/
theorem test_erased_segment_joins_in_wear_order :
    (after (.eraseAttemptEnd .clean []) (worn none 0)).segs.pool = [4, 5, 6, 2] := by decide +kernel

/-- An erase of segment 2 with 8 usable segments left. -/
def lastEight : State := { erasing 2 with segs := { (erasing 2).segs with usable := 8 } }

theorem witness_FailedErasesAreTriedTwice :
    (erasing 1).array = [] ∧ (erasing 1).reclaim = .erasing 2 .ring 1 ∧ lastEight.array = [] ∧
      lastEight.reclaim = .erasing 2 .ring 2 ∧ lastEight.segs.usable = 8 ∧ lastEight.control.mode = .run ∧
      lastEight.writer.state ≠ .writing ∧ lastEight.writer.nextSequence ≠ 281474976710655 ∧
      lastEight.seq.erases = { requester := .reclaim, segment := 2, attempt := 2 } :: [] ∧ 0x7F#8 ≠ 0xFF := by
  decide +kernel

/-! ### Mount -/

theorem reset_scans : State.reset.ScanOk := by constructor <;> decide +kernel

/-- The array of a part with segment 2 in the ring, its first record TORN and its second one unreadable. -/
def mountArray : Memory :=
  let m := Memory.writeBytes [] (address 2 0) (erasedGroup 5)
  let m := m.writeBytes (address 2 16) (openedGroup 7 3 2)
  let m := m.writeBytes (lineAddress 2 4) (headerBytes 0x01 1 0x01 3 2 0 0 0)
  m.writeBytes (lineAddress 2 6) [0x00]

/-- That part, right after a reset. -/
def mounting : State := State.afterReset mountArray

theorem witness_MountScanLoadsAndCounts :
    State.reset.ArrayOk ∧ State.reset.inReset = false ∧ State.reset.mount.phase = .scanning ∧ State.reset.ScanOk :=
  ⟨rfl, rfl, rfl, reset_scans⟩

/-- R162, R163: without a segment to hold it there is no MOUNT record; with an OPEN segment that has room there is. -/
theorem test_mount_without_space :
    (after (.mountScan []) .reset).mount.phase = .ended ∧ (after (.mountScan []) .reset).control.mode = .run ∧
      (after (.mountScan []) .reset).writer.queue = [] ∧
      (let m := Memory.writeBytes (Memory.writeBytes [] (address 2 0) (erasedGroup 5)) (address 2 16) (openedGroup 7 3 2)
       (after (.mountScan []) (State.afterReset m)).mount.phase = .recording ∧
        (after (.mountScan []) (State.afterReset m)).segs.pool = []) := by decide +kernel

theorem mounting_array :
    mounting.array.wf = true ∧ badPresent mountArray 2 = false ∧ retirePresent mountArray 2 = false ∧
      readErased mountArray 2 = .valid ∧ readOpened mountArray 2 = .valid ∧ readSealed mountArray 2 = .absent := by
  decide +kernel

theorem mounting_torn : recordAt mountArray 2 4 = .torn (readHeader mountArray 2 4) := by decide +kernel

theorem witness_MountScanClassifies :
    mounting.inReset = false ∧ mounting.mount.phase = .scanning ∧ mounting.ScanOk ∧ RingSegment mountArray 2 := by
  have h := mounting_array
  exact ⟨rfl, rfl, by constructor <;> decide +kernel, by decide, h.2.1, h.2.2.1, h.2.2.2.1, h.2.2.2.2.1⟩

theorem witness_MountScanReadsTheRecords :
    RingSegment mountArray 2 ∧ ScanReads mountArray 2 4 (readHeader mountArray 2 4) ∧ ScanStops mountArray 2 6 := by
  have t := mounting_torn
  have r : (recordAt mountArray 2 4).readable = some (readHeader mountArray 2 4) := by rw [t]; rfl
  have l : (readHeader mountArray 2 4).length = 0 := by decide +kernel
  refine ⟨witness_MountScanClassifies.2.2.2, ⟨.first, by decide, r⟩, ?_, by decide, .inl (by decide +kernel)⟩
  simpa [l] using ScanLine.next .first (by decide) r

/-- R160, R161: one above the number presumed for the second record, and above the mount number of the first. -/
theorem test_mount_counters :
    let t := after (.mountScan []) mounting
    t.writer.nextSequence = 5 ∧ t.writer.newestDurable = 0 ∧ t.mount.number = 3 := by decide +kernel

/-- R158, R159: a VOID and a SEALED program that fail are counted and the segment is SEALED in the map. -/
theorem test_mount_with_faults :
    let t := after (.mountScan [.left [], .left []]) mounting
    (∀ answer ∈ [Programmed.left [], .left []], answer = .done ∨ answer = .left []) ∧ (t.seg 2).faults = 2 ∧
      (t.seg 2).state = .sealed ∧ t.mount.findings.torn = 1 ∧
      (match recordAt t.array 2 4 with
        | .torn _ => true
        | _ => false) = true := by decide +kernel

/-- The records read end within their segment. -/
theorem witness_MountScanReadsTheRecords_within (i line : Nat) (h : Header) :
    RingSegment mountArray i → ScanReads mountArray i line h → line + (2 + (h.length + 15) / 16) ≤ 4096 := by
  intro r s
  have cells : ∀ c ∈ mountArray, address 2 0 ≤ c.1 ∧ c.1 < address 3 0 := by decide +kernel
  have two : ∀ j < 64, j ≠ 2 → readErased mountArray j ≠ .valid := by
    intro j hj n
    have blank : mountArray.readBytes (address j 0) 12 = List.replicate 12 0xFF := by
      refine readBytes_shift mountArray [] 12 _ 0 fun k hk => read_unlisted fun c hc e => ?_
      have := cells c hc
      simp only [address, Config.segmentBytes] at this e
      omega
    have : readErased mountArray j = .absent := if_pos (by
      show allErased (mountArray.readBytes (address j 0) 12) = true
      rw [blank]
      decide)
    rw [this]
    nofun
  have hi : i = 2 := Decidable.byContradiction fun n => two i (by have := r.1; omega) n r.2.2.2.1
  subst hi
  have stops : (recordAt mountArray 2 6).readable = none := by decide +kernel
  have first : (recordAt mountArray 2 4).readable.map Header.length = some 0 := by decide +kernel
  have lines : ∀ l, ScanLine mountArray 2 l → l = 4 ∨ l = 6 := by
    intro l hl
    induction hl with
    | first => exact .inl rfl
    | next _ _ e ih =>
      rcases ih with rfl | rfl
      · rw [e] at first
        simp at first
        simp [first]
      · rw [stops] at e
        cases e
  rcases lines line s.1 with rfl | rfl
  · have e := s.2.2
    rw [e] at first
    simp at first
    simp [first]
  · exact nomatch stops.symm.trans s.2.2

/-! ### Time -/

/-- RUN with a blocked head under HOLD, whose timer has run out. -/
def holding : State :=
  let s := after (.commit .a 0 9) (pressed .hold .retaining)
  { s with writer := { s.writer with holdTimer := some 0 } }

/-- The same for a head that does not report, with another entry behind it, and in a drain. -/
def holdingNext (length : Nat) (pool : List Nat) : State :=
  { holding with
    segs := { holding.segs with pool := pool }
    writer :=
      { holding.writer with
        queue := [{ waitingEntry with source := .host .a .zero 9 false }, nextEntry length] } }

def holdingDrain : State :=
  { holding with
    control :=
      { holding.control with
        mode := .draining, claimant := some .b, phase := .draining, request := some { tag := 5, report := true } } }

theorem witness_TimersExpireAndAdvance :
    holding.inReset = false ∧ holding.writer.holdTimer = some 0 ∧ holding.writer.state = .waiting ∧
      holding.writer.queue = [waitingEntry] ∧ waitingEntry.kind = .data ∧
      waitingEntry.source = .host .a .zero 9 true ∧ holding.control.phase ≠ .draining ∧
      base.writer.holdTimer ≠ some 0 ∧ holdingDrain.control.phase = .draining ∧
      holdingDrain.writer.queue = [waitingEntry] := by decide +kernel

/-- A next head that can be written, and one that stays blocked. -/
theorem witness_TimersExpireAndAdvance_next :
    (holdingNext 3 [5, 6]).writer.holdTimer = some 0 ∧ (holdingNext 3 [5, 6]).CanWrite (nextEntry 3) ∧
      ¬ (holdingNext 3 [6]).CanWrite (nextEntry 3) ∧ (holdingNext 3 [6]).reclaim = .idle ∧
      (holdingNext 3 [6]).segs.dirty = [] ∧ (holdingNext 3 [6]).eligible = false ∧
      (holdingNext 3 [6]).writer.pressure = .blocked ∧ (holdingNext 3 [6]).store.active.policy = .hold ∧
      (holdingNext 3 [6]).writer.nextSequence ≠ 281474976710655 := by
  have o : (holdingNext 3 [6]).openSegment = some 3 ∧ ((holdingNext 3 [6]).seg 3).fill = some 4092 := by decide +kernel
  refine ⟨by decide +kernel, ⟨by decide +kernel, .inr (.inl (by decide +kernel))⟩, ?_, by decide +kernel⟩
  rintro ⟨-, ⟨i, line, room⟩ | h | h⟩
  · have hi := room.opened
    rw [o.1] at hi
    cases hi
    have r := room.room
    rw [o.2] at r
    exact absurd r (by decide)
  · exact absurd h (by decide +kernel)
  · exact nomatch h.1

/-- R63, R105: the head leaves without a completion, and the next one waits its full limit. -/
theorem test_hold_timer_of_a_departed_port :
    let t := after .holdTimerExpiry (holdingNext 3 [6])
    (t.port .a).lists.queue = [] ∧ ((t.port .a).buffer .zero).state = .empty ∧ t.writer.holdTimer = some 5000 ∧
      t.writer.pressure = .blocked ∧ (t.port .a).lists.notices = (holding.port .a).lists.notices := by decide +kernel

theorem witness_TimersExpireAndAdvance_cursor (state : CursorState) :
    (withCursor base (cursorOf .lossy state)).inReset = false ∧
      (withCursor base (cursorOf .lossy state)).cursor 11 = some (cursorOf .lossy state) :=
  ⟨rfl, rfl⟩

end Sys2Proof.Tests
end

section
/-! SUPPORT. The staging commands (R44 to R46): how a buffer operand reads, what the frame of a command comes to that refuses
or that replaces one staging buffer, and each command's own rule by the case of its table. -/

namespace Sys2Proof.Machine

set_option Elab.async false

/-! ### The buffer operand -/

@[simp] theorem bufferOf_byte (b : BufferId) : bufferOf b.byte = some b := by cases b <;> rfl

theorem bufferOf_eq_none {buffer : Byte} (h : 1 < buffer.toNat) : bufferOf buffer = none := by
  have h0 : buffer ≠ 0x00#8 := by rintro rfl; simp at h
  have h1 : buffer ≠ 0x01#8 := by rintro rfl; simp at h
  simp [bufferOf, h0, h1]

/-! ### Refusing, and replacing a staging buffer -/

variable {s : State} {p : Port} {cls : CommandClass} {body : State → Reply} {code : Code}

@[simp] theorem takeFrame_activeStream (s : State) (p : Port) (n : Nat) :
    (s.takeFrame p).activeStream n = s.activeStream n := by simp [State.activeStream]

theorem hostFrame_refused (need : Attachment) (h : s.admits p cls)
    (hb : body (s.takeFrame p) = .refuse (s.takeFrame p) code) :
    hostFrame p need cls body s = s.answered p code [] := by
  rw [hostFrame_admitted s p cls body need h, hb]
  exact answer_answered ..

theorem hostFrame_staged (need : Attachment) (h : s.admits p cls) {b : BufferId} {u : Buffer}
    (hb : body (s.takeFrame p) = { state := (s.takeFrame p).setBuffer p b u, code := code, result := [] }) :
    hostFrame p need cls body s = (s.answered p code []).modPort p fun v => v.setBuffer b u := by
  rw [hostFrame_admitted s p cls body need h, hb]
  exact answer_modPort s p _ code [] fun _ _ _ => by cases b <;> rfl

theorem admits_append (hr : s.inReset = false) (ha : (s.port p).attached = true) : s.admits p .append :=
  ⟨hr, ha, rfl⟩

theorem admits_staging (hr : s.inReset = false) (ha : (s.port p).attached = true) (hm : s.control.mode ≠ .mounting) :
    s.admits p .staging := ⟨hr, ha, by simp [State.modeGate, hm]⟩

theorem modeGate_staging_mounting (hm : s.control.mode = .mounting) : s.modeGate p .staging = some .wrongMode := by
  simp [State.modeGate, hm]

/-! ### BEGIN RECORD (R44) -/

theorem beginRecord_badValue {buffer : Byte} (h : 1 < buffer.toNat) (stream : Byte) (length : BitVec 16) (s : State) :
    beginRecord p buffer stream length s = .refuse s .badValue := by simp [beginRecord, bufferOf_eq_none h]

theorem beginRecord_byte (p : Port) (b : BufferId) (stream : Byte) (length : BitVec 16) (s : State) :
    beginRecord p b.byte stream length s =
      if s.control.mode ≠ .run then .refuse s .wrongMode
      else if ((s.port p).buffer b).state ≠ .empty then .refuse s .bufferBusy
      else if stream.toNat = 0 ∨ 15 < stream.toNat then .refuse s .badStream
      else if (s.activeStream stream.toNat).writers.has p = false then .refuse s .noRight
      else if (s.activeStream stream.toNat).closed = true then .refuse s .streamClosed
      else if 1024 < length.toNat then .refuse s .badLength
      else
        { state :=
            s.setBuffer p b { state := .loading, stream := stream.toNat, length := length.toNat, bytes := [], tag := 0 }
          code := .ok
          result := [] } := by
  repeat' split
  all_goals simp [beginRecord, firstHolding, *]

theorem exec_beginRecord_byte (b : BufferId) (stream : Byte) (length : BitVec 16) (hr : s.inReset = false)
    (ha : (s.port p).attached = true) :
    exec (.beginRecord p b.byte stream length) s =
      .next
        (if s.control.mode ≠ .run then s.answered p .wrongMode []
        else if ((s.port p).buffer b).state ≠ .empty then s.answered p .bufferBusy []
        else if stream.toNat = 0 ∨ 15 < stream.toNat then s.answered p .badStream []
        else if (s.activeStream stream.toNat).writers.has p = false then s.answered p .noRight []
        else if (s.activeStream stream.toNat).closed = true then s.answered p .streamClosed []
        else if 1024 < length.toNat then s.answered p .badLength []
        else
          (s.answered p .ok []).modPort p fun u =>
            u.setBuffer b
              { state := .loading, stream := stream.toNat, length := length.toNat, bytes := [], tag := 0 }) := by
  have admitted := admits_append hr ha
  have body := beginRecord_byte p b stream length (s.takeFrame p)
  simp only [takeFrame_control, takeFrame_buffer, takeFrame_activeStream] at body
  refine congrArg Host.Outcome.next ?_
  split <;> rename_i mode
  · exact hostFrame_refused _ admitted (body.trans (if_pos mode))
  rw [if_neg mode] at body
  split <;> rename_i busy
  · exact hostFrame_refused _ admitted (body.trans (if_pos busy))
  rw [if_neg busy] at body
  split <;> rename_i number
  · exact hostFrame_refused _ admitted (body.trans (if_pos number))
  rw [if_neg number] at body
  split <;> rename_i right
  · exact hostFrame_refused _ admitted (body.trans (if_pos right))
  rw [if_neg right] at body
  split <;> rename_i closed
  · exact hostFrame_refused _ admitted (body.trans (if_pos closed))
  rw [if_neg closed] at body
  split <;> rename_i long
  · exact hostFrame_refused _ admitted (body.trans (if_pos long))
  · exact hostFrame_staged _ admitted (body.trans (if_neg long))

/-! ### LOAD (R45) -/

theorem exec_load_badCount (p : Port) (buffer : Byte) (offset : BitVec 16) {bytes : List Byte} (s : State)
    (h : bytes = [] ∨ 64 < bytes.length) :
    exec (.load p buffer offset bytes) s = exec (.frameError p .badCount) s := by
  have count : ¬ (1 ≤ bytes.length ∧ bytes.length ≤ 64) := by
    rcases h with rfl | h
    · simp
    · omega
  show execLoad p buffer offset bytes s = execFrameError p .badCount s
  simp [execLoad, execFrameError, count]

theorem exec_load (p : Port) (buffer : Byte) (offset : BitVec 16) {bytes : List Byte} (s : State) (hne : bytes ≠ [])
    (hle : bytes.length ≤ 64) :
    exec (.load p buffer offset bytes) s = .next (hostFrame p .needed .staging (load p buffer offset bytes) s) := by
  have hpos : 1 ≤ bytes.length := List.length_pos_iff.mpr hne
  show execLoad p buffer offset bytes s = _
  simp [execLoad, hpos, hle]

theorem load_badValue {buffer : Byte} (h : 1 < buffer.toNat) (offset : BitVec 16) (bytes : List Byte) (s : State) :
    load p buffer offset bytes s = .refuse s .badValue := by simp [load, bufferOf_eq_none h]

section
variable {b : BufferId} {u : Buffer} {offset : BitVec 16} {bytes : List Byte}

theorem load_next (hu : (s.port p).buffer b = u) (h : u.state = .loading)
    (fits : offset.toNat = u.bytes.length ∧ u.bytes.length + bytes.length ≤ u.length) :
    load p b.byte offset bytes s =
      { state := s.setBuffer p b { u with state := .loading, bytes := u.bytes ++ bytes }
        code := .ok
        result := [] } := by
  simp [load, hu, h, fits]

theorem load_misfit (hu : (s.port p).buffer b = u) (h : u.state = .loading)
    (misfit : ¬ (offset.toNat = u.bytes.length ∧ u.bytes.length + bytes.length ≤ u.length)) :
    load p b.byte offset bytes s =
      { state := s.setBuffer p b { u with state := .faulted }, code := .badOffset, result := [] } := by
  simp [load, hu, h, misfit]

theorem load_faulted (hu : (s.port p).buffer b = u) (h : u.state = .faulted) :
    load p b.byte offset bytes s = .refuse s .bufferFaulted := by simp [load, hu, h]

theorem load_committed (hu : (s.port p).buffer b = u) (h : u.state = .queued ∨ u.state = .writing) :
    load p b.byte offset bytes s = .refuse s .bufferBusy := by
  rcases h with h | h <;> simp [load, hu, h]

theorem load_empty (hu : (s.port p).buffer b = u) (h : u.state = .empty) :
    load p b.byte offset bytes s = .refuse s .badOffset := by simp [load, hu, h]

end

/-! ### ABANDON (R46) -/

theorem abandon_badValue {buffer : Byte} (h : 1 < buffer.toNat) (s : State) :
    abandon p buffer s = .refuse s .badValue := by simp [abandon, bufferOf_eq_none h]

theorem abandon_committed {b : BufferId}
    (h : ((s.port p).buffer b).state = .queued ∨ ((s.port p).buffer b).state = .writing) :
    abandon p b.byte s = .refuse s .bufferBusy := by
  rcases h with h | h <;> simp [abandon, h]

theorem abandon_uncommitted {b : BufferId}
    (h : ¬ (((s.port p).buffer b).state = .queued ∨ ((s.port p).buffer b).state = .writing)) :
    abandon p b.byte s = { state := s.setBuffer p b .cleared, code := .ok, result := [] } := by
  cases state : ((s.port p).buffer b).state <;> simp_all [abandon]

theorem exec_abandon_byte (b : BufferId) (hr : s.inReset = false) (ha : (s.port p).attached = true)
    (hm : s.control.mode ≠ .mounting) :
    exec (.abandon p b.byte) s =
      .next
        (if ((s.port p).buffer b).state = .queued ∨ ((s.port p).buffer b).state = .writing then
          s.answered p .bufferBusy []
        else (s.answered p .ok []).modPort p fun u => u.setBuffer b .cleared) := by
  have admitted := admits_staging hr ha hm
  have same := takeFrame_buffer s p p b
  refine congrArg Host.Outcome.next ?_
  split <;> rename_i committed
  · exact hostFrame_refused _ admitted (abandon_committed (by rwa [same]))
  · exact hostFrame_staged _ admitted (abandon_uncommitted (by rwa [same]))

/-! ### The staging commands -/

/-- Settles O24: each command's frame is admitted or turned away by the mode gate, and its own rule then refuses or
replaces the buffer it names. -/
theorem stagingCommands : Obligations.StagingCommands := by
  unfold Obligations.StagingCommands
  refine ⟨fun p buffer stream length s hr ha => ⟨fun big => ?_, ?_⟩,
    fun p buffer offset bytes s hr ha => ⟨?_, ?_, ?_, ?_, ?_, ?_⟩⟩
  · exact congrArg _ (hostFrame_refused _ (admits_append hr ha) (beginRecord_badValue big ..))
  · rintro b rfl
    exact exec_beginRecord_byte b stream length hr ha
  · exact exec_load_badCount p buffer offset s
  · intro hne hle mounting
    rw [exec_load p buffer offset s hne hle,
      hostFrame_gated s p .staging _ .needed _ hr ha (modeGate_staging_mounting mounting)]
  · intro hne hle mode
    have admitted := admits_staging hr ha mode
    rw [exec_load p buffer offset s hne hle]
    refine ⟨fun big => congrArg _ (hostFrame_refused _ admitted (load_badValue big ..)), ?_⟩
    rintro b rfl u
    refine congrArg Host.Outcome.next ?_
    have same : ((s.takeFrame p).port p).buffer b = u := takeFrame_buffer s p p b
    cases state : u.state with
    | loading =>
      dsimp only
      split <;> rename_i fits
      · exact hostFrame_staged _ admitted (load_next same state fits)
      · exact hostFrame_staged _ admitted (load_misfit same state fits)
    | faulted => exact hostFrame_refused _ admitted (load_faulted same state)
    | queued => exact hostFrame_refused _ admitted (load_committed same (.inl state))
    | writing => exact hostFrame_refused _ admitted (load_committed same (.inr state))
    | empty => exact hostFrame_refused _ admitted (load_empty same state)
  · intro mounting
    exact congrArg _ (hostFrame_gated s p .staging _ .needed _ hr ha (modeGate_staging_mounting mounting))
  · intro mode big
    exact congrArg _ (hostFrame_refused _ (admits_staging hr ha mode) (abandon_badValue big _))
  · rintro b mode rfl
    exact exec_abandon_byte b hr ha mode

end Sys2Proof.Machine
end

section
/-! SUPPORT. READ NEXT and READ WINDOW (R79, R86): when a port reads, how a frame reaches a cursor of its port, and each
command's own rule by the case of its table. -/

namespace Sys2Proof.Machine

set_option Elab.async false

variable {s : State} {p : Port} {id : Byte} {c : Cursor}

/-! ### The cursors of a port -/

theorem cursor_eq_some_iff {j : Nat} : s.cursor j = some c ↔ s.cursors.table[j]? = some (some c) := by
  rw [State.cursor, List.getD_eq_getElem?_getD]
  cases s.cursors.table[j]? <;> simp

/-- R79: a port reads when one of its cursors is FETCHING or WAITING. -/
theorem reading_iff : s.reading p = true ↔ ∃ j c, s.cursor j = some c ∧ c.owner = p ∧ c.state ≠ .idle := by
  simp only [State.reading, List.any_eq_true, List.mem_iff_getElem?, cursor_eq_some_iff]
  constructor
  · rintro ⟨_ | c, ⟨j, found⟩, reads⟩
    · cases reads
    · exact ⟨j, c, found, by simpa using reads⟩
  · rintro ⟨j, c, found, reads⟩
    exact ⟨some c, ⟨j, found⟩, by simpa using reads⟩

theorem reading_eq_false (h : ∀ j c, s.cursor j = some c → c.owner = p → c.state = .idle) :
    s.reading p = false := by
  refine Bool.eq_false_iff.mpr fun reads => ?_
  obtain ⟨j, c, found, owned, busy⟩ := reading_iff.mp reads
  exact busy (h j c found owned)

theorem slotFree_iff : s.slotFree p = true ↔ (s.port p).lists.reserved + (s.port p).lists.queue.length < 16 :=
  decide_eq_true_iff

@[simp] theorem takeFrame_cursor (s : State) (p : Port) (j : Nat) : (s.takeFrame p).cursor j = s.cursor j := by
  simp [State.cursor]

@[simp] theorem takeFrame_reading (s : State) (p q : Port) : (s.takeFrame p).reading q = s.reading q := by
  simp [State.reading]

@[simp] theorem takeFrame_slotFree (s : State) (p q : Port) : (s.takeFrame p).slotFree q = s.slotFree q := by
  simp [State.slotFree]

/-- R70, check 3: a frame whose id names a cursor of its port is handled by the command's own rule. -/
theorem withCursor_takeFrame (body : Cursor → State → Reply) (found : s.cursor id.toNat = some c)
    (owned : c.owner = p) :
    withCursor p id body (s.takeFrame p) = body c (s.takeFrame p) := by
  simp [withCursor, State.ownCursor, found, owned]

/-! ### READ NEXT (R79) -/

section
variable {tag : Byte} {wait : BitVec 16}

theorem readNext_busy (reads : s.reading p = true) : readNext p id tag wait c s = .refuse s .busy := by
  simp [readNext, reads]

theorem readNext_noSlot (reads : s.reading p = false) (full : s.slotFree p = false) :
    readNext p id tag wait c s = .refuse s .noSlot := by simp [readNext, reads, full]

theorem readNext_accepted (reads : s.reading p = false) (free : s.slotFree p = true) :
    readNext p id tag wait c s =
      { state :=
          ((((s.reserveSlot p).emptyWindow p).setCursor id.toNat
            (some { c with state := .fetching { tag := tag, wait := wait.toNat, deadline := none } })).joinFetch
            id.toNat p false).settle
        code := .queued
        result := [] } := by simp [readNext, reads, free]

end

theorem emptyWindow_reserveSlot :
    (s.reserveSlot p).emptyWindow p =
      s.modPort p fun v => { v with window := [], lists := { v.lists with reserved := v.lists.reserved + 1 } } := by
  simp only [State.emptyWindow, State.reserveSlot, State.modLists, modPort_modPort]

theorem answer_joinFetch (i : Nat) (owner : Port) (held : Bool) (code : Code) (result : List Byte) :
    (s.joinFetch i owner held).answer p code result = (s.answer p code result).joinFetch i owner held := by
  cases p <;> rfl

theorem joinFetch_setCursor (i : Nat) (slot : Option Cursor) (owner : Port) (held : Bool) :
    (s.setCursor i slot).joinFetch i owner held =
      { s with
        cursors :=
          { table := s.cursors.table.set i slot
            fetchList := s.cursors.fetchList ++ [{ id := i, owner := owner, held := held }] } } := rfl

/-- R79: the answer to an accepted READ NEXT, with the slot reserved, the window emptied and the cursor in the fetch
list. -/
theorem answer_accepted (i : Nat) (slot : Option Cursor) :
    (((((s.takeFrame p).reserveSlot p).emptyWindow p).setCursor i slot).joinFetch i p false).answer p .queued [] =
      { (s.answered p .queued []).modPort p fun v =>
          { v with window := [], lists := { v.lists with reserved := v.lists.reserved + 1 } } with
        cursors :=
          { table := s.cursors.table.set i slot
            fetchList := s.cursors.fetchList ++ [{ id := i, owner := p, held := false }] } } := by
  rw [answer_joinFetch, answer_setCursor, emptyWindow_reserveSlot, answer_modPort s p _ _ _ fun _ _ _ => rfl,
    joinFetch_setCursor, modPort_cursors, State.answered, modPort_cursors]

/-! ### READ WINDOW (R86) -/

section
variable {offset : BitVec 16} {count : Byte}

theorem readWindow_badValue (h : count.toNat = 0 ∨ 64 < count.toNat) :
    readWindow p offset count s = .refuse s .badValue := by
  have bad : count.toNat < 1 ∨ 64 < count.toNat := by omega
  simp only [readWindow, Bool.or_eq_true, decide_eq_true_eq, if_pos bad]

/-- R86: with a count from 1 to 64, the window and the range decide. -/
theorem readWindow_count (h : ¬ (count.toNat = 0 ∨ 64 < count.toNat)) :
    readWindow p offset count s =
      if (s.port p).window = [] ∨ (s.port p).window.length < offset.toNat + count.toNat then .refuse s .badOffset
      else { state := s, code := .ok, result := ((s.port p).window.drop offset.toNat).take count.toNat } := by
  have good : ¬ (count.toNat < 1 ∨ 64 < count.toNat) := by omega
  simp only [readWindow, Bool.or_eq_true, decide_eq_true_eq, if_neg good, List.isEmpty_iff]

theorem hostFrame_readWindow_badValue (admitted : s.admits p .cursor) (h : count.toNat = 0 ∨ 64 < count.toNat) :
    hostFrame p .needed .cursor (readWindow p offset count) s = s.answered p .badValue [] :=
  hostFrame_refused .needed admitted (readWindow_badValue h)

end

/-! ### The commands -/

/-- Settles O38: READ NEXT by whether the port reads and has a slot free, READ WINDOW by its count, then by its
range. -/
theorem readNextAndReadWindow : Obligations.ReadNextAndReadWindow := by
  unfold Obligations.ReadNextAndReadWindow
  refine fun p s admitted =>
    ⟨fun id tag wait c found owned => ⟨fun reads => ?_, fun idle => ⟨fun full => ?_, fun free => ?_⟩⟩,
    fun offset count => ⟨fun bad _ => ?_, fun bad _ => ?_, fun good bad => ?_, fun good inside => ?_⟩⟩
  · refine congrArg _ (hostFrame_refused _ admitted ?_)
    rw [withCursor_takeFrame _ found owned]
    exact readNext_busy (by simpa using reading_iff.mpr reads)
  · have noSlot : s.slotFree p = false :=
      Bool.eq_false_iff.mpr fun free => Nat.not_lt.mpr full (slotFree_iff.mp free)
    refine congrArg _ (hostFrame_refused _ admitted ?_)
    rw [withCursor_takeFrame _ found owned]
    exact readNext_noSlot (by simpa using reading_eq_false idle) (by simpa using noSlot)
  · refine congrArg Host.Outcome.next ?_
    rw [hostFrame_admitted s p .cursor _ .needed admitted, withCursor_takeFrame _ found owned,
      readNext_accepted (by simpa using reading_eq_false idle) (by simpa using slotFree_iff.mpr free)]
    exact (answer_settle ..).trans (congrArg State.settle (answer_accepted ..))
  · exact ⟨.badValue, .inl rfl, congrArg _ (hostFrame_readWindow_badValue admitted bad)⟩
  · exact congrArg _ (hostFrame_readWindow_badValue admitted bad)
  · refine congrArg _ (hostFrame_refused _ admitted ?_)
    rw [readWindow_count good, takeFrame_window, if_pos bad]
  · refine congrArg Host.Outcome.next ?_
    rw [hostFrame_admitted s p .cursor _ .needed admitted, readWindow_count good, takeFrame_window, if_neg inside]
    exact answer_answered ..

end Sys2Proof.Machine
end

section
/-! SUPPORT. The completion and notice lists (R168 to R173): how a NEXT or AGAIN operand reads, what the frame comes to
that changes one completion unit, each take by the case of its list, and the port a notice is handed to. -/

namespace Sys2Proof.Machine

set_option Elab.async false

variable {s : State} {p : Port} {which : Byte}

/-! ### The operand -/

theorem whichOf_eq_none (h : 1 < which.toNat) : whichOf which = none := by
  have h0 : which ≠ 0x00#8 := by rintro rfl; simp at h
  have h1 : which ≠ 0x01#8 := by rintro rfl; simp at h
  simp [whichOf, h0, h1]

theorem whichOf_next : whichOf 0x00#8 = some .next := rfl

theorem whichOf_again (small : ¬ 1 < which.toNat) (h : which ≠ 0x00#8) : whichOf which = some .again := by
  obtain rfl : which = 0x01#8 := by bv_omega
  rfl

/-! ### Changing one completion unit -/

theorem modLists_congr {f g : CompletionUnit → CompletionUnit} (h : f (s.port p).lists = g (s.port p).lists) :
    s.modLists p f = s.modLists p g := modPort_congr s p _ _ (by rw [h])

/-- R124: the mode table takes TAKE COMPLETION and TAKE NOTICE in every mode. -/
theorem admits_always (hr : s.inReset = false) (ha : (s.port p).attached = true) : s.admits p .always := ⟨hr, ha, rfl⟩

section
variable {cls : CommandClass} {body : State → Reply} {code : Code} {result : List Byte}

theorem hostFrame_unchanged (need : Attachment) (h : s.admits p cls)
    (hb : body (s.takeFrame p) = { state := s.takeFrame p, code := code, result := result }) :
    hostFrame p need cls body s = s.answered p code result := by
  rw [hostFrame_admitted s p cls body need h, hb]
  exact answer_answered ..

theorem hostFrame_modLists (need : Attachment) (h : s.admits p cls) {f g : CompletionUnit → CompletionUnit}
    (hb : body (s.takeFrame p) = { state := (s.takeFrame p).modLists p f, code := code, result := result })
    (hf : f (s.port p).lists = g (s.port p).lists) :
    hostFrame p need cls body s = (s.answered p code result).modLists p g := by
  rw [hostFrame_admitted s p cls body need h, hb]
  exact (answer_modLists ..).trans (modLists_congr (by rwa [answered_lists]))

end

/-! ### TAKE COMPLETION (R169) -/

section
variable {u : CompletionUnit} {c : Completion} {queue : List Completion}

theorem CompletionUnit.takeCompletion_empty (h : u.queue = []) :
    u.takeCompletion = { u with lastCompletion := none } := by
  obtain ⟨⟩ := u
  cases h
  rfl

theorem CompletionUnit.takeCompletion_cons (h : u.queue = c :: queue) :
    u.takeCompletion = { u with queue := queue, lastCompletion := some c } := by
  simp [CompletionUnit.takeCompletion, h]

end

theorem takeCompletion_badValue (h : 1 < which.toNat) (s : State) :
    takeCompletion p which s = .refuse s .badValue := by simp [takeCompletion, whichOf_eq_none h]

theorem takeCompletion_next (s : State) {answer : Option Completion}
    (h : (s.port p).lists.takeCompletion.lastCompletion = answer) :
    takeCompletion p 0x00#8 s =
      { state := s.modLists p CompletionUnit.takeCompletion
        code := (completionAnswer answer).1
        result := (completionAnswer answer).2 } := by
  simp [takeCompletion, whichOf_next, h]

theorem takeCompletion_again (small : ¬ 1 < which.toNat) (h : which ≠ 0x00#8) (s : State) :
    takeCompletion p which s =
      { state := s
        code := (completionAnswer (s.port p).lists.lastCompletion).1
        result := (completionAnswer (s.port p).lists.lastCompletion).2 } := by
  simp [takeCompletion, whichOf_again small h]

/-! ### TAKE NOTICE (R172) -/

section
variable {u : CompletionUnit} {n : Notice} {notices : List Notice}

theorem CompletionUnit.takeNotice_empty (h : u.notices = []) : u.takeNotice = { u with lastNotice := none } := by
  obtain ⟨⟩ := u
  cases h
  rfl

/-- R172: the take that empties the list clears the lost count. -/
theorem CompletionUnit.takeNotice_singleton (h : u.notices = [n]) :
    u.takeNotice = { u with notices := [], lost := 0, lastNotice := some (n, u.lost) } := by
  simp [CompletionUnit.takeNotice, h]

theorem CompletionUnit.takeNotice_cons (h : u.notices = n :: notices) (several : notices ≠ []) :
    u.takeNotice = { u with notices := notices, lastNotice := some (n, u.lost) } := by
  simp [CompletionUnit.takeNotice, h, several]

end

theorem takeNotice_badValue (h : 1 < which.toNat) (s : State) : takeNotice p which s = .refuse s .badValue := by
  simp [takeNotice, whichOf_eq_none h]

theorem takeNotice_next (s : State) {answer : Option (Notice × Nat)}
    (h : (s.port p).lists.takeNotice.lastNotice = answer) :
    takeNotice p 0x00#8 s =
      { state := s.modLists p CompletionUnit.takeNotice
        code := (noticeAnswer answer).1
        result := (noticeAnswer answer).2 } := by
  simp [takeNotice, whichOf_next, h]

theorem takeNotice_again (small : ¬ 1 < which.toNat) (h : which ≠ 0x00#8) (s : State) :
    takeNotice p which s =
      { state := s
        code := (noticeAnswer (s.port p).lists.lastNotice).1
        result := (noticeAnswer (s.port p).lists.lastNotice).2 } := by
  simp [takeNotice, whichOf_again small h]

/-! ### Notices and completions that join a list (R168, R170, R171) -/

section
variable (n : Notice)

theorem port_hand_ne {q : Port} (h : q ≠ p) : (s.hand p n).port q = s.port q := by
  unfold State.hand
  split
  · exact port_modLists_ne s p q _ h
  · rfl

theorem port_hand_self :
    (s.hand p n).port p =
      if (s.port p).attached = false then s.port p
      else { s.port p with lists := (s.port p).lists.addNotice n } := by
  cases attached : (s.port p).attached <;> simp [State.hand, attached]

theorem port_hand_congr {t : State} (h : s.port p = t.port p) : (s.hand p n).port p = (t.hand p n).port p := by
  rw [port_hand_self, port_hand_self, h]

/-- R170: what a port finds of a notice handed to all ports does not depend on the other two. -/
theorem port_handAll : (s.handAll n).port p = (s.hand p n).port p := by
  cases p with
  | a => exact (port_hand_ne n (by decide)).trans (port_hand_ne n (by decide))
  | b => exact (port_hand_ne n (by decide)).trans (port_hand_congr n (port_hand_ne n (by decide)))
  | c => exact port_hand_congr n ((port_hand_ne n (by decide)).trans (port_hand_ne n (by decide)))

end

theorem CompletionUnit.post_reserved {u : CompletionUnit} (h : 0 < u.reserved) (c : Completion) :
    u.post c = { u with queue := u.queue ++ [c], reserved := u.reserved - 1 } := if_pos h

/-! ### The ATTN line (R173) -/

theorem attn_iff (hr : s.inReset = false) :
    s.attn p = true ↔
      ((s.port p).lists.queue ≠ [] ∧ (s.port p).maskCompletions = true) ∨
        ((s.port p).lists.notices ≠ [] ∧ (s.port p).maskNotices = true) := by
  simp only [State.attn, hr, Bool.not_false, Bool.true_and, Bool.or_eq_true, Bool.and_eq_true, Bool.not_eq_true',
    List.isEmpty_eq_false_iff]

/-! ### The lists -/

/-- Settles O41: a take by its operand and by what its list holds, a notice by the port it reaches, the line by the two
lists and their masks, a posting by the reservation it finds. -/
theorem completionAndNoticeLists : Obligations.CompletionAndNoticeLists := by
  unfold Obligations.CompletionAndNoticeLists
  refine fun p s => ⟨fun which hr ha => ?_, fun n => (port_handAll n).trans (port_hand_self n), attn_iff,
    fun c reserved => modLists_congr (CompletionUnit.post_reserved reserved c)⟩
  have admitted : s.admits p .always := admits_always hr ha
  have same : ((s.takeFrame p).port p).lists = (s.port p).lists := takeFrame_lists s p p
  dsimp only
  refine ⟨congrArg Host.Outcome.next ?_, congrArg Host.Outcome.next ?_⟩
  · split
    next big => exact hostFrame_refused _ admitted (takeCompletion_badValue big _)
    next small =>
      split
      next oldest =>
        subst oldest
        split
        next empty =>
          have take := CompletionUnit.takeCompletion_empty empty
          exact hostFrame_modLists _ admitted (takeCompletion_next _ (by rw [same, take])) take
        next c rest nonempty =>
          have take := CompletionUnit.takeCompletion_cons nonempty
          exact hostFrame_modLists _ admitted (takeCompletion_next _ (by rw [same, take])) take
      next again =>
        have repeated := takeCompletion_again (p := p) small again (s.takeFrame p)
        rw [same] at repeated
        split
        next last => exact hostFrame_unchanged _ admitted (by rw [repeated, last]; rfl)
        next c last => exact hostFrame_unchanged _ admitted (by rw [repeated, last]; rfl)
  · split
    next big => exact hostFrame_refused _ admitted (takeNotice_badValue big _)
    next small =>
      split
      next oldest =>
        subst oldest
        split
        next empty =>
          have take := CompletionUnit.takeNotice_empty empty
          exact hostFrame_modLists _ admitted (takeNotice_next _ (by rw [same, take])) take
        next n only =>
          have take := CompletionUnit.takeNotice_singleton only
          exact hostFrame_modLists _ admitted (takeNotice_next _ (by rw [same, take])) take
        next n rest several nonempty =>
          have take := CompletionUnit.takeNotice_cons nonempty fun empty => several (by rw [empty])
          exact hostFrame_modLists _ admitted (takeNotice_next _ (by rw [same, take])) take
      next again =>
        have repeated := takeNotice_again (p := p) small again (s.takeFrame p)
        rw [same] at repeated
        split
        next last => exact hostFrame_unchanged _ admitted (by rw [repeated, last]; rfl)
        next n lost last => exact hostFrame_unchanged _ admitted (by rw [repeated, last]; rfl)

end Sys2Proof.Machine
end

section
/-! SUPPORT. READ STATUS, READ CLOCK and the queries (R178, R183, R184): the status byte position by position, the frame
of a command that every mode and a detached port may send, what a query reads of a part whose frame is taken, and the
fields of each answer. -/

namespace Sys2Proof.Machine

set_option Elab.async false

variable {s : State} {p : Port}

/-! ### The status byte (R178, R191) -/

theorem getLsbD_bitAt {n i : Nat} (b : Bool) (h : n < 8) : (bitAt n b).getLsbD i = (b && decide (i = n)) := by
  cases b with
  | false => simp [bitAt]
  | true =>
    have one : 1#8 <<< n = BitVec.twoPow 8 n := rfl
    simp only [bitAt, if_true, one, BitVec.getLsbD_twoPow, Bool.true_and, h, decide_true, eq_comm]

theorem getLsbD_modeByte (m : Mode) {i : Nat} (h : 3 ≤ i) : m.byte.getLsbD i = false := by
  have small : m.byte.toNat < 2 ^ 3 := by cases m <;> decide
  exact Nat.testBit_lt_two_pow (Nat.lt_of_lt_of_le small (Nat.pow_le_pow_right (by decide) h))

/-- R178: each position of the status byte is one indication's, or one of the mode code's. -/
theorem getLsbD_statusByte {i : Nat} (h : i < 8) :
    (s.statusByte p).getLsbD i =
      (((s.port p).attached && decide (i = 0)) || (!(s.port p).lists.queue.isEmpty && decide (i = 1)) ||
        (!(s.port p).lists.notices.isEmpty && decide (i = 2)) ||
        (!decide (i < 3) && s.control.mode.byte.getLsbD (i - 3)) ||
        (s.claimOrLease p && decide (i = 6)) || ((s.port p).lastRejected && decide (i = 7))) := by
  simp [State.statusByte, -BitVec.getLsbD_eq_getElem, BitVec.getLsbD_or, BitVec.getLsbD_shiftLeft, getLsbD_bitAt, h]

theorem extractLsb'_statusByte : (s.statusByte p).extractLsb' 3 3 = s.control.mode.byte.extractLsb' 0 3 := by
  refine BitVec.eq_of_getLsbD_eq fun i hi => ?_
  have below : ∀ n < 3, 3 + i ≠ n := by omega
  have above : ∀ n > 5, 3 + i ≠ n := by omega
  simp [BitVec.getLsbD_extractLsb', -BitVec.getLsbD_eq_getElem, hi, getLsbD_statusByte (show 3 + i < 8 by omega), below,
    above]

theorem claimOrLease_iff :
    s.claimOrLease p = true ↔
      ((s.port p).attached = true ∧ s.control.claimant = some p ∧
          (s.control.phase = .draining ∨ s.control.phase = .active)) ∨
        ((s.port p).attached = false ∧ (s.port p).detachedByLease = true) := by
  cases attached : (s.port p).attached <;> simp [State.claimOrLease, attached]

@[simp] theorem takeFrame_lastRejected : ((s.takeFrame p).port p).lastRejected = false := by simp [State.takeFrame]

@[simp] theorem takeFrame_detachedByLease : ((s.takeFrame p).port p).detachedByLease = (s.port p).detachedByLease := by
  simp [State.takeFrame]

@[simp] theorem takeFrame_claimOrLease : (s.takeFrame p).claimOrLease p = s.claimOrLease p := by
  simp [State.claimOrLease]

/-- R177, R178: the taking of a frame clears position 7 of the status byte and leaves the others. -/
theorem statusByte_takeFrame : (s.takeFrame p).statusByte p = s.statusByte p &&& 0x7F := by
  refine BitVec.eq_of_getLsbD_eq fun i hi => ?_
  have mask : (0x7F : Byte).getLsbD i = decide (i < 7) := by decide +revert
  rw [BitVec.getLsbD_and, mask, getLsbD_statusByte hi, getLsbD_statusByte hi, takeFrame_lastRejected,
    takeFrame_claimOrLease, takeFrame_attached, takeFrame_lists, takeFrame_control]
  by_cases last : i = 7
  · subst last
    simp [getLsbD_modeByte, -BitVec.getLsbD_eq_getElem]
  · have low : i < 7 := by omega
    simp [last, low]

/-! ### The frames of READ STATUS and of the queries -/

/-- R124, R179: a command that every mode takes and that a detached port may send is answered outside reset. -/
theorem hostFrame_always (hr : s.inReset = false) (body : State → Reply) :
    hostFrame p .notNeeded .always body s =
      (body (s.takeFrame p)).state.answer p (body (s.takeFrame p)).code (body (s.takeFrame p)).result := by
  simp [hostFrame, hr, State.modeGate]

theorem admits_other (hr : s.inReset = false) (ha : (s.port p).attached = true) (hm : s.control.mode ≠ .mounting) :
    s.admits p .other := ⟨hr, ha, by simp [State.modeGate, hm]⟩

theorem modeGate_other_mounting (hm : s.control.mode = .mounting) : s.modeGate p .other = some .wrongMode := by
  simp [State.modeGate, hm]

/-- R183: READ STATUS on an attached or a detached port, in every mode. -/
theorem exec_readStatus (hr : s.inReset = false) :
    exec (.readStatus p) s = .next (s.answered p .ok [s.statusByte p &&& 0x7F]) := by
  refine congrArg Host.Outcome.next ((hostFrame_always hr _).trans ?_)
  rw [← statusByte_takeFrame]
  exact answer_answered ..

theorem readClock_takeFrame :
    readClock (s.takeFrame p) =
      { state := s.takeFrame p, code := .ok, result := be 4 s.tick.toNat ++ be 2 s.mount.number } := by
  simp [readClock]

theorem exec_readClock (hr : s.inReset = false) (ha : (s.port p).attached = true) :
    exec (.readClock p) s =
      .next
        (if s.control.mode = .mounting then s.answered p .wrongMode []
        else s.answered p .ok (be 4 s.tick.toNat ++ be 2 s.mount.number)) := by
  refine congrArg Host.Outcome.next ?_
  split
  next mounting => exact hostFrame_gated s p .other _ .needed _ hr ha (modeGate_other_mounting mounting)
  next mode => exact hostFrame_unchanged _ (admits_other hr ha mode) readClock_takeFrame

/-! ### The fields that a query reports (R184) -/

@[simp] theorem takeFrame_seg (i : Nat) : (s.takeFrame p).seg i = s.seg i := by simp [State.seg]

@[simp] theorem takeFrame_oldest : (s.takeFrame p).oldest = s.oldest := by simp [State.oldest]

@[simp] theorem takeFrame_journalBytes : (s.takeFrame p).journalBytes = s.journalBytes := by
  simp [State.journalBytes, State.reportedClaimant]

theorem optionalPortByte_reportedClaimant :
    optionalPortByte s.reportedClaimant =
      if s.control.phase = .ending then 0x00#8 else optionalPortByte s.control.claimant :=
  apply_ite optionalPortByte ..

theorem exec_queryJournal (h : s.admits p .other) :
    exec (.queryJournal p) s = .next (s.answered p .ok s.journalBytes) :=
  congrArg _ (hostFrame_unchanged _ h (by rw [queryJournal, takeFrame_journalBytes]))

theorem querySegment_eq (index : Byte) (s : State) :
    querySegment index s =
      if 2 ≤ index.toNat ∧ index.toNat ≤ 63 then
        { state := s, code := .ok, result := (s.seg index.toNat).bytes index.toNat }
      else .refuse s .badValue := by
  simp only [querySegment, Bool.and_eq_true, decide_eq_true_eq]
  rfl

theorem exec_querySegment (h : s.admits p .other) (index : Byte) :
    exec (.querySegment p index) s =
      .next
        (if 2 ≤ index.toNat ∧ index.toNat ≤ 63 then s.answered p .ok ((s.seg index.toNat).bytes index.toNat)
        else s.answered p .badValue []) := by
  refine congrArg Host.Outcome.next ?_
  split
  next journal => exact hostFrame_unchanged _ h (by rw [querySegment_eq, if_pos journal, takeFrame_seg])
  next other => exact hostFrame_refused _ h (by rw [querySegment_eq, if_neg other])

/-! ### The queries -/

/-- Settles O21: the status byte position by position, and each answer field by field. -/
theorem queriesAnswerTheirFields : Obligations.QueriesAnswerTheirFields := by
  unfold Obligations.QueriesAnswerTheirFields
  refine ⟨fun p s hr => ⟨exec_readStatus hr, exec_readClock hr, ?_, ?_, ?_, ?_, ?_, ?_⟩,
    fun p index s admitted => ⟨?_, ?_⟩⟩
  · simp [getLsbD_statusByte, -BitVec.getLsbD_eq_getElem]
  · simp [getLsbD_statusByte, -BitVec.getLsbD_eq_getElem]
  · simp [getLsbD_statusByte, -BitVec.getLsbD_eq_getElem]
  · rw [extractLsb'_statusByte]
    cases s.control.mode <;> rfl
  · rw [← claimOrLease_iff]
    simp [getLsbD_statusByte, getLsbD_modeByte, -BitVec.getLsbD_eq_getElem]
  · simp [getLsbD_statusByte, getLsbD_modeByte, -BitVec.getLsbD_eq_getElem]
  · rw [exec_queryJournal admitted, State.journalBytes, optionalPortByte_reportedClaimant]
    rfl
  · rw [exec_querySegment admitted, SegEntry.bytes]
    dsimp only
    cases (s.seg index.toNat).bad with
    | none => rfl
    | some reason => cases reason <;> rfl

end Sys2Proof.Machine
end
